-- ==== Sys2Proof/Word.lean ====
section
/-! DEFINITION. The word types of KJWT-CORE: bytes, 32-bit words, byte strings, the four-byte words of the
key schedule and the sixteen-byte blocks (00_scope.md R12, R13, R16; 40_gf_state.md R133). -/

namespace Sys2Proof

/-- A byte, 8 bits (R12). -/
abbrev Byte := BitVec 8

/-- A 32-bit word: a command, a control register, one lane of `OIDV` (R12, R100). -/
abbrev Word := BitVec 32

/-- A byte string, first byte first (R13). -/
abbrev Bytes := List Byte

/-- Four bytes, first byte first: a word of the key schedule (R16), or one column of the AES State, top to
bottom (R133). It never has an integer value. -/
structure Quad where
  b0 : Byte
  b1 : Byte
  b2 : Byte
  b3 : Byte
deriving DecidableEq, Repr

/-- A block: exactly sixteen bytes (R13), held as the four columns of the AES State; column c is bytes
4c to 4c+3, "the first four input bytes are column 0 top to bottom" (R133). -/
structure Block where
  c0 : Quad
  c1 : Quad
  c2 : Quad
  c3 : Quad
deriving DecidableEq, Repr

/-- Four zero bytes. -/
def Quad.zero : Quad := ⟨0, 0, 0, 0⟩

/-- Sixteen zero bytes. -/
def Block.zero : Block := ⟨Quad.zero, Quad.zero, Quad.zero, Quad.zero⟩

end Sys2Proof
end

