-- ==== Sys2Proof/Config.lean ====
section
/-! DEFINITION. The implementation parameters of an instance (00_scope.md R11), the constants R11 fixes, and
the one free value of the model (93_implementation_defined.md U1). -/

namespace Sys2Proof

/-- How the EMSA encoder builds T (R11 `EMSA_T_FORM`, R311). -/
inductive EmsaTForm where
  | literal
  | digestInfo
deriving DecidableEq, Repr

/-- The parameters of one instance, "one configuration record" (R11). -/
structure Config where
  /-- Address of offset 0 of the register block in the HOST's address space. -/
  base : Nat
  /-- Largest byte length of a big integer loaded by BN.LD. -/
  kmax : Nat
  /-- Largest number of additional-prime triplets. -/
  apMax : Nat
  /-- Size of `DBUF` in bytes. -/
  dbufSize : Nat
  /-- Capacity of `OUTQ` in items. -/
  outqDepth : Nat
  emsaTForm : EmsaTForm
deriving DecidableEq, Repr

/-- The constraints of R11's table. The bound DBUF_SIZE/16 + 3 of `OUTQ_DEPTH` is multiplied out: its `/` is
exact (R14 writes floor division as `div`; no depth fits a `DBUF_SIZE` above 4032, 90_conflicts.md C7). -/
def Config.wf (c : Config) : Bool :=
  c.base % 0x4000 = 0 && 1 ≤ c.kmax && c.kmax ≤ c.dbufSize && c.apMax ≤ 7 &&
  c.dbufSize % 4 = 0 && 128 ≤ c.dbufSize && c.dbufSize ≤ 4032 &&
  c.dbufSize + 48 ≤ 16 * c.outqDepth && c.outqDepth ≤ 255

/-- The reference instance: R11's defaults. `BASE` is OPEN in the spec; DESIGN CHOICE 0 here (log entry 2),
and no rule depends on it. -/
def Config.reference : Config :=
  { base := 0, kmax := 512, apMax := 3, dbufSize := 1024, outqDepth := 128, emsaTForm := .literal }

/-- `ID_VALUE` (R11, R26). -/
def Config.idValue : Word := 0x4B4A5754#32

/-- `OID_MAX`, the largest number of components of an object identifier (R11). -/
def Config.oidMax : Nat := 16

/-- FREE VALUE (U1, log entry 5): bits [31:1] of the n-th `STATUS` read answered while `BUSY = 1`,
"unspecified values in every other field" (R28). It has no body, so no proof can see a value of it. -/
opaque Config.statusWhileBusy : Nat → BitVec 31

end Sys2Proof
end

