-- ==== Sys2Proof/Syntax.lean ====
section
/-! DEFINITION. The commands of KJWT-CORE: one constructor per row of spec/opcode_table.json, with the
sub-fields of 30_encoding.md R103 and the length field `L` of R102. -/

namespace Sys2Proof

/-- Session direction, `dir` (R103, R48). -/
inductive Dir where
  | encrypt
  | decrypt
deriving DecidableEq, Repr

/-- Session chaining mode, `chain` (R103, R48). -/
inductive ChainMode where
  | ecb
  | cbc
deriving DecidableEq, Repr

/-- Which private-key form a signing command reads, `form` (R103, R260). -/
inductive KeyForm where
  | pair
  | multiPrime
deriving DecidableEq, Repr

/-- The 28 commands (R104). A field that some values of which the command's own rule rejects (`ks`, `round`,
`alg`, `L`) is its bits; `pad` and `reg` are bits too, and their reserved values are what WellFormed refuses. -/
inductive Instr where
  | nop
  | aesKeyexp (ks : BitVec 2)
  | aesEncb (l : BitVec 16)
  | aesDecb (l : BitVec 16)
  | sesInit (dir : Dir) (chain : ChainMode) (pad : BitVec 2)
  | sesUpdate (l : BitVec 16)
  | sesFinal (l : BitVec 16)
  | gfMul (l : BitVec 16)
  | stSubbytes (l : BitVec 16)
  | stInvsubbytes (l : BitVec 16)
  | stShiftrows (l : BitVec 16)
  | stInvshiftrows (l : BitVec 16)
  | stMixcolumns (l : BitVec 16)
  | stInvmixcolumns (l : BitVec 16)
  | stAddroundkey (round : BitVec 4) (l : BitVec 16)
  | bnLd (reg : BitVec 6) (l : BitVec 16)
  | bnSt (reg : BitVec 6) (l : BitVec 16)
  | rsaSp1 (form : KeyForm)
  | rsaVp1
  | emsaEnc (alg : BitVec 4) (l : BitVec 16)
  | pkcsSign (alg : BitVec 4) (form : KeyForm)
  | pkcsVerify (alg : BitVec 4) (l : BitVec 16)
  | derLenenc
  | derLendec (l : BitVec 16)
  | oidEnc
  | oidDec (l : BitVec 16)
  | algidEnc (alg : BitVec 4)
  | oidLdalg (alg : BitVec 4)
deriving DecidableEq, Repr

end Sys2Proof
end

