-- ==== Sys2Proof/Decode.lean ====
section
/-! DEFINITION. Decoding of the command word, total on all 2^32 words (30_encoding.md R105), and the encoder
written from the same tables (R100 to R104). -/

namespace Sys2Proof

/-- `OPC`, word bits [7:0] (R100). -/
def opcOf (c : Word) : Byte := c.extractLsb' 0 8

/-- `A`, word bits [15:8] (R100). -/
def aOf (c : Word) : Byte := c.extractLsb' 8 8

/-- `L`, word bits [31:16] (R100). -/
def lOf (c : Word) : BitVec 16 := c.extractLsb' 16 16

/-- Why a word is IllegalCommand (R105, R106). -/
inductive Reject where
  /-- no row has this `OPC` -/
  | reservedOpcode
  /-- the format does not use `A` and `A` is not 0 -/
  | unusedANonzero
  /-- the format does not use `L` and `L` is not 0 -/
  | unusedLNonzero
  /-- a bit of `A` outside the row's sub-fields is 1 -/
  | unusedABitSet
  /-- SES.INIT with `pad` = 3 -/
  | reservedPad
  /-- BN.LD or BN.ST with a register number it may not name -/
  | reservedRegister
deriving DecidableEq, Repr

/-- One row of the opcode map R104: the operation code, whether the format uses `A` and `L` (R101), and the
bits of `A` that belong to a sub-field (R103). -/
structure OpcodeRow where
  opc : Byte
  usesA : Bool
  usesL : Bool
  aBits : Byte
deriving DecidableEq, Repr

/-- R104, opcodes 0x00 to 0x0F: system and AES unit. -/
def opcodeRowsAes : List OpcodeRow :=
  [ ⟨0x00, false, false, 0x00⟩,   -- NOP, Z
    ⟨0x01, true, false, 0x03⟩,    -- AES.KEYEXP, A, ks
    ⟨0x02, false, true, 0x00⟩,    -- AES.ENCB, L
    ⟨0x03, false, true, 0x00⟩,    -- AES.DECB, L
    ⟨0x04, true, false, 0x0F⟩,    -- SES.INIT, A, dir chain pad
    ⟨0x05, false, true, 0x00⟩,    -- SES.UPDATE, L
    ⟨0x06, false, true, 0x00⟩,    -- SES.FINAL, L
    ⟨0x08, false, true, 0x00⟩,    -- GF.MUL, L
    ⟨0x09, false, true, 0x00⟩,    -- ST.SUBBYTES, L
    ⟨0x0A, false, true, 0x00⟩,    -- ST.INVSUBBYTES, L
    ⟨0x0B, false, true, 0x00⟩,    -- ST.SHIFTROWS, L
    ⟨0x0C, false, true, 0x00⟩,    -- ST.INVSHIFTROWS, L
    ⟨0x0D, false, true, 0x00⟩,    -- ST.MIXCOLUMNS, L
    ⟨0x0E, false, true, 0x00⟩,    -- ST.INVMIXCOLUMNS, L
    ⟨0x0F, true, true, 0x0F⟩ ]    -- ST.ADDROUNDKEY, AL, round

/-- R104, opcodes 0x10 to 0x1D: RSA, PKCS and DER. -/
def opcodeRowsRsaDer : List OpcodeRow :=
  [ ⟨0x10, true, true, 0x3F⟩,     -- BN.LD, AL, reg
    ⟨0x11, true, true, 0x3F⟩,     -- BN.ST, AL, reg
    ⟨0x12, true, false, 0x01⟩,    -- RSA.SP1, A, form
    ⟨0x13, false, false, 0x00⟩,   -- RSA.VP1, Z
    ⟨0x14, true, true, 0x0F⟩,     -- EMSA.ENC, AL, alg
    ⟨0x15, true, false, 0x1F⟩,    -- PKCS.SIGN, A, alg form
    ⟨0x16, true, true, 0x0F⟩,     -- PKCS.VERIFY, AL, alg
    ⟨0x18, false, false, 0x00⟩,   -- DER.LENENC, Z
    ⟨0x19, false, true, 0x00⟩,    -- DER.LENDEC, L
    ⟨0x1A, false, false, 0x00⟩,   -- OID.ENC, Z
    ⟨0x1B, false, true, 0x00⟩,    -- OID.DEC, L
    ⟨0x1C, true, false, 0x0F⟩,    -- ALGID.ENC, A, alg
    ⟨0x1D, true, false, 0x0F⟩ ]   -- OID.LDALG, A, alg

/-- The complete opcode map (R104). -/
def opcodeRows : List OpcodeRow := opcodeRowsAes ++ opcodeRowsRsaDer

/-- The bignum register numbers that exist on an instance: 0 to 9, and 16 to 15 + 3*AP_MAX (10_state.md R21).
BN.LD may name these (R105). -/
def bnRegExists (cfg : Config) (reg : BitVec 6) : Bool :=
  reg.toNat ≤ 9 || (16 ≤ reg.toNat && reg.toNat ≤ 15 + 3 * cfg.apMax)

/-- The register numbers BN.ST may name: `N`, `E`, `M`, `S` (R105, 44_bignum.md R243). -/
def bnRegStorable (reg : BitVec 6) : Bool :=
  reg = 0 || reg = 1 || reg = 8 || reg = 9

/-- `dir` = A[0] (R103). -/
def dirOf (a : Byte) : Dir := if a.getLsbD 0 then .decrypt else .encrypt

/-- `chain` = A[1] (R103). -/
def chainOf (a : Byte) : ChainMode := if a.getLsbD 1 then .cbc else .ecb

/-- `form`, one bit (R103). -/
def formOf (b : Bool) : KeyForm := if b then .multiPrime else .pair

/-- The sub-fields of a word whose row has passed the must-be-zero tests, and the last three tests of R105. -/
def decodeFields (cfg : Config) (opc a : Byte) (l : BitVec 16) : Except Reject Instr :=
  match opc.toNat with
  | 0x00 => .ok .nop
  | 0x01 => .ok (.aesKeyexp (a.extractLsb' 0 2))
  | 0x02 => .ok (.aesEncb l)
  | 0x03 => .ok (.aesDecb l)
  | 0x04 =>
    if a.extractLsb' 2 2 = 3#2 then .error .reservedPad
    else .ok (.sesInit (dirOf a) (chainOf a) (a.extractLsb' 2 2))
  | 0x05 => .ok (.sesUpdate l)
  | 0x06 => .ok (.sesFinal l)
  | 0x08 => .ok (.gfMul l)
  | 0x09 => .ok (.stSubbytes l)
  | 0x0A => .ok (.stInvsubbytes l)
  | 0x0B => .ok (.stShiftrows l)
  | 0x0C => .ok (.stInvshiftrows l)
  | 0x0D => .ok (.stMixcolumns l)
  | 0x0E => .ok (.stInvmixcolumns l)
  | 0x0F => .ok (.stAddroundkey (a.extractLsb' 0 4) l)
  | 0x10 =>
    if bnRegExists cfg (a.extractLsb' 0 6) then .ok (.bnLd (a.extractLsb' 0 6) l)
    else .error .reservedRegister
  | 0x11 =>
    if bnRegStorable (a.extractLsb' 0 6) then .ok (.bnSt (a.extractLsb' 0 6) l)
    else .error .reservedRegister
  | 0x12 => .ok (.rsaSp1 (formOf (a.getLsbD 0)))
  | 0x13 => .ok .rsaVp1
  | 0x14 => .ok (.emsaEnc (a.extractLsb' 0 4) l)
  | 0x15 => .ok (.pkcsSign (a.extractLsb' 0 4) (formOf (a.getLsbD 4)))
  | 0x16 => .ok (.pkcsVerify (a.extractLsb' 0 4) l)
  | 0x18 => .ok .derLenenc
  | 0x19 => .ok (.derLendec l)
  | 0x1A => .ok .oidEnc
  | 0x1B => .ok (.oidDec l)
  | 0x1C => .ok (.algidEnc (a.extractLsb' 0 4))
  | 0x1D => .ok (.oidLdalg (a.extractLsb' 0 4))
  | _ => .error .reservedOpcode

/-- Decoding of a command word on an instance (R105). Every error is IllegalCommand. -/
def decode (cfg : Config) (c : Word) : Except Reject Instr :=
  match opcodeRows.find? (fun row => row.opc = opcOf c) with
  | none => .error .reservedOpcode
  | some row =>
    if !row.usesA ∧ aOf c ≠ 0 then .error .unusedANonzero
    else if !row.usesL ∧ lOf c ≠ 0 then .error .unusedLNonzero
    else if aOf c &&& ~~~row.aBits ≠ 0 then .error .unusedABitSet
    else decodeFields cfg (opcOf c) (aOf c) (lOf c)

/-- What the model's decoder reads from an opcode-table row's bits, on the reference instance. Every command is
one 32-bit word (R100). -/
def decodeTableWord (nbits w : Nat) : Option Instr :=
  (decode Config.reference (BitVec.ofNat 32 (w % 2 ^ nbits))).toOption

/-- A command word from its three fields (R100). -/
def commandWord (opc a : Byte) (l : BitVec 16) : Word := l ++ a ++ opc

/-- The bit of `dir` (R103). -/
def Dir.bit : Dir → BitVec 1
  | .encrypt => 0
  | .decrypt => 1

/-- The bit of `chain` (R103). -/
def ChainMode.bit : ChainMode → BitVec 1
  | .ecb => 0
  | .cbc => 1

/-- The bit of `form` (R103). -/
def KeyForm.bit : KeyForm → BitVec 1
  | .pair => 0
  | .multiPrime => 1

/-- The command word of an instruction (R100 to R104). -/
def encode : Instr → Word
  | .nop => commandWord 0x00 0 0
  | .aesKeyexp ks => commandWord 0x01 (0#6 ++ ks) 0
  | .aesEncb l => commandWord 0x02 0 l
  | .aesDecb l => commandWord 0x03 0 l
  | .sesInit dir chain pad => commandWord 0x04 (0#4 ++ pad ++ chain.bit ++ dir.bit) 0
  | .sesUpdate l => commandWord 0x05 0 l
  | .sesFinal l => commandWord 0x06 0 l
  | .gfMul l => commandWord 0x08 0 l
  | .stSubbytes l => commandWord 0x09 0 l
  | .stInvsubbytes l => commandWord 0x0A 0 l
  | .stShiftrows l => commandWord 0x0B 0 l
  | .stInvshiftrows l => commandWord 0x0C 0 l
  | .stMixcolumns l => commandWord 0x0D 0 l
  | .stInvmixcolumns l => commandWord 0x0E 0 l
  | .stAddroundkey round l => commandWord 0x0F (0#4 ++ round) l
  | .bnLd reg l => commandWord 0x10 (0#2 ++ reg) l
  | .bnSt reg l => commandWord 0x11 (0#2 ++ reg) l
  | .rsaSp1 form => commandWord 0x12 (0#7 ++ form.bit) 0
  | .rsaVp1 => commandWord 0x13 0 0
  | .emsaEnc alg l => commandWord 0x14 (0#4 ++ alg) l
  | .pkcsSign alg form => commandWord 0x15 (0#3 ++ form.bit ++ alg) 0
  | .pkcsVerify alg l => commandWord 0x16 (0#4 ++ alg) l
  | .derLenenc => commandWord 0x18 0 0
  | .derLendec l => commandWord 0x19 0 l
  | .oidEnc => commandWord 0x1A 0 0
  | .oidDec l => commandWord 0x1B 0 l
  | .algidEnc alg => commandWord 0x1C (0#4 ++ alg) 0
  | .oidLdalg alg => commandWord 0x1D (0#4 ++ alg) 0

end Sys2Proof
end

