-- ==== Sys2Proof/WellFormed.lean ====
section
/-! DEFINITION. Which terms of `Instr` are commands of an instance: the last three tests of 30_encoding.md R105.
Every other value of every field is a command (its own rule may raise an exception). -/

namespace Sys2Proof

/-- SES.INIT's `pad` is not the reserved 3; BN.LD names a register of the instance; BN.ST names `N`, `E`, `M`
or `S` (R105). -/
def Instr.wellFormed (cfg : Config) : Instr → Bool
  | .sesInit _ _ pad => pad ≠ 3
  | .bnLd reg _ => bnRegExists cfg reg
  | .bnSt reg _ => bnRegStorable reg
  | .nop => true
  | .aesKeyexp _ => true
  | .aesEncb _ => true
  | .aesDecb _ => true
  | .sesUpdate _ => true
  | .sesFinal _ => true
  | .gfMul _ => true
  | .stSubbytes _ => true
  | .stInvsubbytes _ => true
  | .stShiftrows _ => true
  | .stInvshiftrows _ => true
  | .stMixcolumns _ => true
  | .stInvmixcolumns _ => true
  | .stAddroundkey _ _ => true
  | .rsaSp1 _ => true
  | .rsaVp1 => true
  | .emsaEnc _ _ => true
  | .pkcsSign _ _ => true
  | .pkcsVerify _ _ => true
  | .derLenenc => true
  | .derLendec _ => true
  | .oidEnc => true
  | .oidDec _ => true
  | .algidEnc _ => true
  | .oidLdalg _ => true

end Sys2Proof
end

