-- ==== Sys2Proof/Machine/State.lean ====
section
/-! DEFINITION. The state of one KJWT-CORE instance as plain data (10_state.md R20), its reset value (R52), and
the reasons a step could stop. -/

namespace Sys2Proof.Machine

open Sys2Proof

/-- The session phase `PHASE` (R48); the code 3 "never occurs" (R28, U6) and cannot be written down. -/
inductive Phase where
  | idle
  | active
  | finished
deriving DecidableEq, Repr

/-- The padding strategy `PAD` (R48, 43_modes.md R207); the code 3 "never occurs". -/
inductive Pad where
  | none
  | zero
  | pkcs7
deriving DecidableEq, Repr

/-- The key size of the schedule `AESMODE` (R47); the code 3 "never occurs". -/
inductive AesMode where
  | aes128
  | aes192
  | aes256
deriving DecidableEq, Repr

/-- An item of the output queue (R45). -/
inductive OutItem where
  | block (b : Block)
  | endMark
deriving DecidableEq, Repr

/-- A bignum register: `BN[r]` and its valid bit `BNV[r]` (R21, R22). -/
structure BnCell where
  val : Nat
  valid : Bool
deriving DecidableEq, Repr

/-- The ENGINE: `BUSY = 0`, or `BUSY = 1` with the accepted command word still to be committed (R27, R83; log
entry 4). -/
inductive Engine where
  | idle
  | running (c : Word)
deriving DecidableEq, Repr

/-- The size of a bus access: 1, 2 or 4 bytes (20_memory.md R74, R75). -/
inductive Width where
  | byte
  | half
  | word
deriving DecidableEq, Repr

/-- One bus access of the HOST at an address of its address space; a write carries its data in the low bytes
of `v` (R74, R75). -/
inductive Access where
  | read (addr : Nat) (n : Width)
  | write (addr : Nat) (n : Width) (v : Word)
deriving DecidableEq, Repr

/-- What happens next at the machine: a HOST access, a moment at which the ENGINE reaches its commit point, or a
pulse of the reset input (00_scope.md R9, 20_memory.md R84, 70_reset_and_hazards.md R400; log entry 3). -/
inductive Event where
  | host (a : Access)
  | engine
  | reset
deriving DecidableEq, Repr

/-- The response of a bus access: the data of a read, the acknowledgement of a write, or an access fault
(20_memory.md R74, R75, R77; log entry 6). -/
inductive BusResponse where
  | data (v : Word)
  | written
  | accessFault
deriving DecidableEq, Repr

/-- The ten exception classes (60_exceptions.md R361). -/
inductive Exc where
  | illegalCommand
  | contractViolation
  | outOfRange
  | messageTooLong
  | encodedMessageTooShort
  | unsupportedAlgorithm
  | invalidKey
  | integerTooLarge
  | decodeError
  | outputOverflow
deriving DecidableEq, Repr

/-- The byte windows `IV`, `KEY`, `HBUF` and `DBUF` as one list of (offset, byte) pairs, offsets strictly rising
and no byte zero; an offset not listed reads as zero, the reset contents (R52; log entry 7). -/
abbrev Memory := List Host.Cell

/-- No fault exists: every exception of the spec is taken (60_exceptions.md R364), a bus access fault is a
response to the HOST and changes nothing (20_memory.md R77), and no rule stops the machine. No one raises one;
safe. -/
inductive Fault where
deriving DecidableEq, Repr

/-- Refusals. -/
inductive Refusal where
  /-- Raised by an arm of exec for an instruction without a meaning. No arm does. Safe: the machine stops. -/
  | notModelled (mnemonic : String)
deriving DecidableEq, Repr

/-- The complete state (R20): the instance's parameters, the architectural state in R20's order, and the model's
own `agenda`, `resp` and `freeCtr`. -/
structure State where
  /-- The parameters of the instance (00_scope.md R11); no rule writes them (log entry 1). -/
  cfg : Config
  /-- `BUSY`, with the accepted word (R28, R83). -/
  engine : Engine
  /-- `DONE` (R28). -/
  done : Bool
  /-- `ERR` (R28). -/
  err : Bool
  /-- `ERRCODE` (R29). -/
  errcode : BitVec 8
  /-- `ERRCMD` (R30). -/
  errcmd : Word
  /-- `IRQEN`: bit 0 `DONE_IE`, bit 1 `ERR_IE`, bit 2 `OUT_IE` (R32). -/
  irqen : BitVec 3
  /-- `ARG0` (R33). -/
  arg0 : Word
  /-- `RES0` (R34). -/
  res0 : Word
  /-- `RES1` (R34). -/
  res1 : Word
  /-- `DLEN` (R35). -/
  dlen : BitVec 16
  /-- `HLEN` (R36). -/
  hlen : BitVec 7
  /-- `OIDN` (R38). -/
  oidn : BitVec 5
  /-- `NAP` (R23). -/
  nap : BitVec 3
  /-- `IV`, `KEY`, `HBUF`, `DBUF` (R40, R41, R44, R43) at their offsets of 20_memory.md R71. -/
  mem : Memory
  /-- `OIDV[0..15]` (R42). -/
  oidv : Vector Word 16
  /-- `OUTQ`, head first (R45). -/
  outq : List OutItem
  /-- `BN[r]` and `BNV[r]` by register number (R21, R22). -/
  bn : Vector BnCell 64
  /-- `W[0..59]` (R47). -/
  w : Vector Quad 60
  /-- `KVALID` (R47). -/
  kvalid : Bool
  /-- `AESMODE` (R47). -/
  aesMode : AesMode
  /-- `PHASE` (R48). -/
  phase : Phase
  /-- `DIR` (R48). -/
  dir : Dir
  /-- `CHAINMODE` (R48). -/
  chainMode : ChainMode
  /-- `PAD` (R48). -/
  pad : Pad
  /-- `CHAIN` (R48). -/
  chain : Block
  /-- `BUF` (R48). -/
  buf : Block
  /-- `BUFLEN` (R48). -/
  bufLen : BitVec 4
  /-- MODEL: the events still to happen, first one first (log entry 3). -/
  agenda : List Event
  /-- MODEL: the response of the last bus access, none before the first (log entry 6). -/
  resp : Option BusResponse
  /-- MODEL: how many free values have been used (log entry 5). -/
  freeCtr : Nat
deriving DecidableEq, Repr

/-- The state of an instance right after reset (R52, 70_reset_and_hazards.md R400): every architectural field at
R52's value. The model's own fields: nothing on the agenda, no response, no free value used (DESIGN CHOICE, log
entries 3, 5, 6). -/
def State.resetOf (cfg : Config) : State :=
  { cfg := cfg
    engine := .idle
    done := false
    err := false
    errcode := 0
    errcmd := 0
    irqen := 0
    arg0 := 0
    res0 := 0
    res1 := 0
    dlen := 0
    hlen := 0
    oidn := 0
    nap := 0
    mem := []
    oidv := Vector.replicate 16 0
    outq := []
    bn := Vector.replicate 64 ⟨0, false⟩
    w := Vector.replicate 60 Quad.zero
    kvalid := false
    aesMode := .aes128
    phase := .idle
    dir := .encrypt
    chainMode := .ecb
    pad := .none
    chain := Block.zero
    buf := Block.zero
    bufLen := 0
    agenda := []
    resp := none
    freeCtr := 0 }

/-- The reference instance right after reset (R11's defaults, R52). -/
def State.reset : State := State.resetOf Config.reference

end Sys2Proof.Machine
end

