-- ==== Sys2Proof/Machine/Ops.lean ====
section
/-! DEFINITION. The shared operations over memory, registers and queue; taking an exception (60_exceptions.md
R364), completing a command (48_system.md R340) and the return from an exception (R345). -/

namespace Sys2Proof.Machine

open Sys2Proof

/-! ## Memory: the byte windows -/

/-- The byte at an offset; an offset not listed holds zero. -/
def Memory.read : Memory → Nat → Byte
  | [], _ => 0
  | (b, u) :: m, a => if a = b then u else Memory.read m a

/-- Put a byte at an offset, keeping the canonical form: writing zero removes the entry. -/
def Memory.write : Memory → Nat → Byte → Memory
  | [], a, v => if v = 0 then [] else [(a, v)]
  | (b, u) :: m, a, v =>
    if a < b then (if v = 0 then (b, u) :: m else (a, v) :: (b, u) :: m)
    else if a = b then (if v = 0 then m else (a, v) :: m)
    else (b, u) :: Memory.write m a v

/-- The n bytes from offset a up. -/
def Memory.readBytes (m : Memory) : Nat → Nat → Bytes
  | _, 0 => []
  | a, n + 1 => Memory.read m a :: Memory.readBytes m (a + 1) n

/-- Put a byte string at offset a and up, first byte at a. -/
def Memory.writeBytes : Memory → Nat → Bytes → Memory
  | m, _, [] => m
  | m, a, v :: vs => Memory.writeBytes (Memory.write m a v) (a + 1) vs

/-- Every offset listed is at least `lo`, offsets rise strictly, no byte is zero. -/
def Memory.wfFrom : Nat → Memory → Bool
  | _, [] => true
  | lo, (b, u) :: m => decide (lo ≤ b) && u != 0 && Memory.wfFrom (b + 1) m

/-- The canonical form. -/
def Memory.wf (m : Memory) : Bool := Memory.wfFrom 0 m

/-! ## Blocks -/

/-- The block whose i-th byte is `f i`. -/
def blockOfFn (f : Nat → Byte) : Block :=
  ⟨⟨f 0, f 1, f 2, f 3⟩, ⟨f 4, f 5, f 6, f 7⟩, ⟨f 8, f 9, f 10, f 11⟩, ⟨f 12, f 13, f 14, f 15⟩⟩

/-- The sixteen bytes of a block, first one first (40_gf_state.md R134). -/
def blockBytes (b : Block) : Bytes :=
  [b.c0.b0, b.c0.b1, b.c0.b2, b.c0.b3, b.c1.b0, b.c1.b1, b.c1.b2, b.c1.b3,
   b.c2.b0, b.c2.b1, b.c2.b2, b.c2.b3, b.c3.b0, b.c3.b1, b.c3.b2, b.c3.b3]

/-- Byte i of a block (zero beyond the sixteen). -/
def blockByte (b : Block) (i : Nat) : Byte := (blockBytes b).getD i 0

/-- The block of the first sixteen bytes of a string. -/
def blockOfBytes (x : Bytes) : Block := blockOfFn (fun i => x.getD i 0)

/-- XOR of two four-byte words, byte by byte (41_key_expansion.md R172). -/
def xorQuad (p q : Quad) : Quad := ⟨p.b0 ^^^ q.b0, p.b1 ^^^ q.b1, p.b2 ^^^ q.b2, p.b3 ^^^ q.b3⟩

/-- XOR of two blocks, lane by lane (00_scope.md R14). -/
def xorBlock (s t : Block) : Block :=
  ⟨xorQuad s.c0 t.c0, xorQuad s.c1 t.c1, xorQuad s.c2 t.c2, xorQuad s.c3 t.c3⟩

/-- A block whose first bytes are those of a string, the others kept: `BUF[0 .. len(x)-1] <- x` (43_modes.md
R206). -/
def overwriteBlock (b : Block) (x : Bytes) : Block := blockOfFn (fun i => x.getD i (blockByte b i))

/-! ## The bignum register file -/

/-- `BN[r]` (10_state.md R21). -/
def State.bnVal (s : State) (r : BitVec 6) : Nat := (s.bn[r.toNat]'r.isLt).val

/-- `BNV[r]` (R22). -/
def State.bnValid (s : State) (r : BitVec 6) : Bool := (s.bn[r.toNat]'r.isLt).valid

/-- `BN[r] <- v`, which also sets `BNV[r]` (00_scope.md R15, R22). -/
def State.putBn (s : State) (r : BitVec 6) (v : Nat) : State :=
  { s with bn := s.bn.set r.toNat ⟨v, true⟩ r.isLt }

/-! ## Results -/

/-- Offset of `DBUF` (20_memory.md R71). -/
def dbufBase : Nat := 0x1000

/-- `DBUF[0 .. len(x)-1] <- x; DLEN <- len(x)` (10_state.md R35, R43). -/
def State.putDbuf (s : State) (x : Bytes) : State :=
  { s with mem := Memory.writeBytes s.mem dbufBase x, dlen := BitVec.ofNat 16 x.length }

/-- `RES0 <- r0; RES1 <- r1` (R34). -/
def State.putRes (s : State) (r0 r1 : Nat) : State :=
  { s with res0 := BitVec.ofNat 32 r0, res1 := BitVec.ofNat 32 r1 }

/-- `OIDV[i] <- o[i]` from entry i up; entries past the sixteenth do not exist (R42). -/
def putComponents : Vector Word 16 → Nat → List Nat → Vector Word 16
  | v, _, [] => v
  | v, i, c :: cs => putComponents (v.setIfInBounds i (BitVec.ofNat 32 c)) (i + 1) cs

/-- `OIDV[0 .. len(o)-1] <- o; OIDN <- len(o)` (46_der.md R292, R296). -/
def State.putOid (s : State) (o : List Nat) : State :=
  { s with oidv := putComponents s.oidv 0 o, oidn := BitVec.ofNat 5 o.length }

/-! ## The life of a command -/

/-- The code of an exception class (60_exceptions.md R361). -/
def Exc.code : Exc → BitVec 8
  | .illegalCommand => 0x01
  | .contractViolation => 0x02
  | .outOfRange => 0x03
  | .messageTooLong => 0x04
  | .encodedMessageTooShort => 0x05
  | .unsupportedAlgorithm => 0x06
  | .invalidKey => 0x07
  | .integerTooLarge => 0x08
  | .decodeError => 0x09
  | .outputOverflow => 0x0A

/-- Acceptance of a command word: `DONE <- 0; BUSY <- 1` (20_memory.md R83). -/
def State.accept (s : State) (c : Word) : State := { s with done := false, engine := .running c }

/-- TAKING AN EXCEPTION: `ERR <- 1; ERRCODE <- code(X); ERRCMD <- the command word; BUSY <- 0`, `DONE` stays
(60_exceptions.md R364). -/
def State.raise (s : State) (x : Exc) (c : Word) : State :=
  { s with engine := .idle, err := true, errcode := x.code, errcmd := c }

/-- Completion without an exception: `BUSY <- 0; DONE <- 1` (48_system.md R340). -/
def State.complete (s : State) : State := { s with engine := .idle, done := true }

/-- The commit point of a command (R340): its rule's state changes and completion, or the exception it raised
and nothing else. The recorded word is the instruction's own (log entry 8). -/
def finish (i : Instr) (s : State) (r : Except Exc State) : Host.Outcome State Fault Refusal :=
  match r with
  | .ok t => .next t.complete
  | .error x => .next (s.raise x (encode i))

/-- THE RETURN FROM AN EXCEPTION, CLRERR: `ERR <- 0; ERRCODE <- 0; ERRCMD <- 0` (48_system.md R345,
60_exceptions.md R375). -/
def State.clearError (s : State) : State := { s with err := false, errcode := 0, errcmd := 0 }

/-- POP: the head item of `OUTQ` is removed, if there is one (48_system.md R344). -/
def State.popOutput (s : State) : State := { s with outq := s.outq.tail }

/-- Every piece of architectural state to its reset value: ZEROIZE (48_system.md R346) and the reset input
(70_reset_and_hazards.md R400). The instance and the model's own fields stay. -/
def State.clearAll (s : State) : State :=
  { State.resetOf s.cfg with agenda := s.agenda, resp := s.resp, freeCtr := s.freeCtr }

/-- Record the response of a bus access. -/
def State.respond (s : State) (r : BusResponse) : State := { s with resp := some r }

/-- The agenda after its first event. -/
def State.withAgenda (s : State) (es : List Event) : State := { s with agenda := es }

end Sys2Proof.Machine
end

