-- ==== Sys2Proof/Machine/Operands.lean ====
section
/-! DEFINITION. Every operand a command reads: byte strings of `DBUF`, `HBUF`, `KEY` and `IV`, the bignum
registers by name, the object identifier, the round count (10_state.md; 30_encoding.md R102, R103). -/

namespace Sys2Proof.Machine

open Sys2Proof

/-! ## The byte windows (20_memory.md R71) -/

def ivBase : Nat := 0x50
def keyBase : Nat := 0x60
def hbufBase : Nat := 0xC0

/-- `DBUF[0 .. n-1]` (10_state.md R43). -/
def State.dbuf (s : State) (n : Nat) : Bytes := Memory.readBytes s.mem dbufBase n

/-- `HBUF[0 .. n-1]` (R44). -/
def State.hbuf (s : State) (n : Nat) : Bytes := Memory.readBytes s.mem hbufBase n

/-- The block `DBUF[0..15]`. -/
def State.dbufBlock (s : State) : Block := blockOfBytes (s.dbuf 16)

/-- The block `IV[0..15]` (R40). -/
def State.ivBlock (s : State) : Block := blockOfBytes (Memory.readBytes s.mem ivBase 16)

/-- Key word i: `[KEY[4i], KEY[4i+1], KEY[4i+2], KEY[4i+3]]` (41_key_expansion.md R171). -/
def State.keyWord (s : State) (i : Nat) : Quad :=
  ⟨Memory.read s.mem (keyBase + 4 * i), Memory.read s.mem (keyBase + 4 * i + 1),
   Memory.read s.mem (keyBase + 4 * i + 2), Memory.read s.mem (keyBase + 4 * i + 3)⟩

/-- `BUF[0 .. BUFLEN-1]` (10_state.md R48). -/
def State.buffered (s : State) : Bytes := (blockBytes s.buf).take s.bufLen.toNat

/-! ## The bignum registers by name (10_state.md R21) -/

def regN : BitVec 6 := 0
def regE : BitVec 6 := 1
def regD : BitVec 6 := 2
def regP : BitVec 6 := 3
def regQ : BitVec 6 := 4
def regDP : BitVec 6 := 5
def regDQ : BitVec 6 := 6
def regQINV : BitVec 6 := 7
def regM : BitVec 6 := 8
def regS : BitVec 6 := 9

/-- `R[j]`, register 16 + 3j. -/
def regR (j : Nat) : BitVec 6 := BitVec.ofNat 6 (16 + 3 * j)

/-- `DA[j]`, register 17 + 3j. -/
def regDA (j : Nat) : BitVec 6 := BitVec.ofNat 6 (17 + 3 * j)

/-- `T[j]`, register 18 + 3j. -/
def regT (j : Nat) : BitVec 6 := BitVec.ofNat 6 (18 + 3 * j)

/-- The additional-prime triplets in use, (`R[j]`, `DA[j]`, `T[j]`) for j < NAP, in order (R21, R23). -/
def State.triplets (s : State) : List (Nat × Nat × Nat) :=
  (List.range s.nap.toNat).map fun j => (s.bnVal (regR j), s.bnVal (regDA j), s.bnVal (regT j))

/-! ## The object identifier (10_state.md R42) -/

/-- The components `OIDV[0 .. OIDN-1]`. `OIDN` can be above 16 (R38); the list then is longer than 16, which
46_der.md R287 refuses, so what it holds past the sixteenth entry is never used. -/
def State.components (s : State) : List Nat :=
  (List.range s.oidn.toNat).map fun i => (s.oidv[i]?.getD 0).toNat

/-! ## The key sizes (41_key_expansion.md R170) -/

/-- `Nk`: 4, 6, 8. -/
def AesMode.nk : AesMode → Nat
  | .aes128 => 4
  | .aes192 => 6
  | .aes256 => 8

/-- `Nr`: 10, 12, 14. -/
def AesMode.nr : AesMode → Nat
  | .aes128 => 10
  | .aes192 => 12
  | .aes256 => 14

/-- The key size a `ks` field selects; 3 selects none (30_encoding.md R103). -/
def aesModeOf (ks : BitVec 2) : Option AesMode :=
  match ks.toNat with
  | 0 => some .aes128
  | 1 => some .aes192
  | 2 => some .aes256
  | _ => none

/-- The padding strategy a `pad` field selects; 3 is reserved (R103). -/
def padOf (pad : BitVec 2) : Option Pad :=
  match pad.toNat with
  | 0 => some .none
  | 1 => some .zero
  | 2 => some .pkcs7
  | _ => none

/-! ## The hash-algorithm table (10_state.md R46) -/

/-- One row: the ObjectIdentifier and hLen. -/
structure AlgRow where
  oid : List Nat
  hLen : Nat
deriving DecidableEq, Repr

/-- `ALG[0..8]`, in the order of the enumeration: MD2, MD5, SHA1, SHA224, SHA256, SHA384, SHA512, SHA512/224,
SHA512/256. -/
def algTable : List AlgRow :=
  [ ⟨[1, 2, 840, 113549, 2, 2], 16⟩,
    ⟨[1, 2, 840, 113549, 2, 5], 16⟩,
    ⟨[1, 3, 14, 3, 2, 26], 20⟩,
    ⟨[2, 16, 840, 1, 101, 3, 4, 2, 4], 28⟩,
    ⟨[2, 16, 840, 1, 101, 3, 4, 2, 1], 32⟩,
    ⟨[2, 16, 840, 1, 101, 3, 4, 2, 2], 48⟩,
    ⟨[2, 16, 840, 1, 101, 3, 4, 2, 3], 64⟩,
    ⟨[2, 16, 840, 1, 101, 3, 4, 2, 5], 28⟩,
    ⟨[2, 16, 840, 1, 101, 3, 4, 2, 6], 32⟩ ]

/-- The row a code names; the codes 9 to 15 name none and raise UnsupportedAlgorithm (R46). -/
def algOf (alg : BitVec 4) : Option AlgRow := algTable[alg.toNat]?

end Sys2Proof.Machine
end

