-- ==== Sys2Proof/Machine/Flags.lean ====
section
/-! DEFINITION. The flags and the views composed of them: `STATUS`, `OUTSTAT`, `OUTHEAD` and the interrupt
output (10_state.md R25, R28, R37, R39; 60_exceptions.md R372). There are no arithmetic condition codes (R25). -/

namespace Sys2Proof.Machine

open Sys2Proof

/-- `BUSY` (R28): 1 from acceptance to the commit point. -/
def State.busy (s : State) : Bool :=
  match s.engine with
  | .idle => false
  | .running _ => true

/-- The code of `PHASE`: 0 IDLE, 1 ACTIVE, 2 FINISHED (R28). -/
def Phase.code : Phase → BitVec 2
  | .idle => 0
  | .active => 1
  | .finished => 2

/-- The code of `PAD`: 0 NONE, 1 ZERO, 2 PKCS7 (R28). -/
def Pad.code : Pad → BitVec 2
  | .none => 0
  | .zero => 1
  | .pkcs7 => 2

/-- The code of `AESMODE`: 0 AES-128, 1 AES-192, 2 AES-256 (R28). -/
def AesMode.code : AesMode → BitVec 2
  | .aes128 => 0
  | .aes192 => 1
  | .aes256 => 2

/-- `STATUS` as R28 lays it out, bits [31:20] first. -/
def State.statusWord (s : State) : Word :=
  0#12 ++ s.bufLen ++ 0#4 ++ s.aesMode.code ++ s.pad.code ++ s.chainMode.bit ++ s.dir.bit ++ s.phase.code ++
    BitVec.ofBool s.kvalid ++ BitVec.ofBool s.err ++ BitVec.ofBool s.done ++ BitVec.ofBool s.busy

/-- `STATUS` read while `BUSY = 1`: bit 0 is 1, the other bits are the next free value (R28, U1; log entry 5). -/
def State.busyStatusWord (s : State) : Word := Config.statusWhileBusy s.freeCtr ++ 1#1

/-- `HEADKIND`: 0 empty, 1 `BLOCK`, 2 `END` (R37). -/
def State.headKind (s : State) : BitVec 2 :=
  match s.outq with
  | [] => 0
  | .block _ :: _ => 1
  | .endMark :: _ => 2

/-- `OUTSTAT`: `HEADKIND` in [1:0], `OUTCNT` in [15:8] (R37). -/
def State.outstatWord (s : State) : Word :=
  0#16 ++ BitVec.ofNat 8 s.outq.length ++ 0#6 ++ s.headKind

/-- Byte i of `OUTHEAD`: of the head block, or zero (R39). -/
def State.outheadByte (s : State) (i : Nat) : Byte :=
  match s.outq with
  | .block b :: _ => blockByte b i
  | _ => 0

/-- The interrupt output (60_exceptions.md R372). -/
def State.irq (s : State) : Bool :=
  (s.done && s.irqen.getLsbD 0) || (s.err && s.irqen.getLsbD 1) || (!s.outq.isEmpty && s.irqen.getLsbD 2)

end Sys2Proof.Machine
end

