-- ==== Sys2Proof/Machine/System.lean ====
section
/-! DEFINITION. The system command NOP and the `CTRL` actions (48_system.md). -/

namespace Sys2Proof.Machine

open Sys2Proof

/-- NOP (R341): nothing but `DONE`. -/
def execNop (s : State) : Host.Outcome State Fault Refusal := finish .nop s (.ok s)

/-- A write of v to `CTRL` (R343): ZEROIZE and stop, else CLRERR, then POP. -/
def State.ctrlAction (s : State) (v : Word) : State :=
  if v.getLsbD 2 then s.clearAll
  else
    let s1 := if v.getLsbD 0 then s.clearError else s
    if v.getLsbD 1 then s1.popOutput else s1

end Sys2Proof.Machine
end

