-- ==== Sys2Proof/Machine/Bus.lean ====
section
/-! DEFINITION. The bus: the address map, legal accesses, byte lanes, and the two access primitives
(20_memory.md). -/

namespace Sys2Proof.Machine

open Sys2Proof

/-- The 32-bit registers (R71). -/
inductive Reg32 where
  | id
  | cmd
  | status
  | errcode
  | errcmd
  | ctrl
  | irqen
  | arg0
  | res0
  | res1
  | dlen
  | hlen
  | outstat
  | oidn
  | nap
deriving DecidableEq, Repr

/-- What a row of the address map holds: a 32-bit register, the sixteen `OIDV` entries, or a byte window (R71). -/
inductive Target where
  | reg (r : Reg32)
  | oidv
  | outhead
  | iv
  | key
  | hbuf
  | dbuf
deriving DecidableEq, Repr

/-- One row of the address map: offsets `base` to `base + size - 1`. -/
structure MapRow where
  base : Nat
  size : Nat
  target : Target
deriving DecidableEq, Repr

/-- The offsets of the 32-bit registers (R71). -/
def registerRows : List MapRow :=
  [ ⟨0x00, 4, .reg .id⟩, ⟨0x04, 4, .reg .cmd⟩, ⟨0x08, 4, .reg .status⟩, ⟨0x0C, 4, .reg .errcode⟩,
    ⟨0x10, 4, .reg .errcmd⟩, ⟨0x14, 4, .reg .ctrl⟩, ⟨0x18, 4, .reg .irqen⟩, ⟨0x1C, 4, .reg .arg0⟩,
    ⟨0x20, 4, .reg .res0⟩, ⟨0x24, 4, .reg .res1⟩, ⟨0x28, 4, .reg .dlen⟩, ⟨0x2C, 4, .reg .hlen⟩,
    ⟨0x30, 4, .reg .outstat⟩, ⟨0x34, 4, .reg .oidn⟩, ⟨0x38, 4, .reg .nap⟩ ]

/-- The address map (R71); what no row covers is reserved. -/
def addressMap (cfg : Config) : List MapRow :=
  registerRows ++
  [ ⟨0x40, 16, .outhead⟩, ⟨ivBase, 16, .iv⟩, ⟨keyBase, 32, .key⟩, ⟨0x80, 64, .oidv⟩, ⟨hbufBase, 64, .hbuf⟩,
    ⟨dbufBase, cfg.dbufSize, .dbuf⟩ ]

/-- The number of bytes of an access. -/
def Width.bytes : Width → Nat
  | .byte => 1
  | .half => 2
  | .word => 4

/-- Whether 1- and 2-byte accesses are legal too: for the byte windows (R71, R76). -/
def Target.narrow : Target → Bool
  | .reg _ => false
  | .oidv => false
  | .outhead => true
  | .iv => true
  | .key => true
  | .hbuf => true
  | .dbuf => true

/-- The row an access of n bytes at an offset falls in, if the access is legal: aligned, all bytes in one row,
a width the row allows (R76). -/
def legalRow (cfg : Config) (off : Nat) (n : Width) : Option MapRow :=
  if off % n.bytes ≠ 0 then none
  else
    (addressMap cfg).find? fun row =>
      decide (row.base ≤ off) && decide (off + n.bytes ≤ row.base + row.size) &&
        (decide (n = .word) || row.target.narrow)

/-- The offset of a HOST address in the block of 0x4000 addresses from `BASE` (R70). -/
def blockOffset (cfg : Config) (addr : Nat) : Option Nat :=
  if cfg.base ≤ addr ∧ addr < cfg.base + 0x4000 then some (addr - cfg.base) else none

/-! ## Byte lanes (R73) -/

/-- The bytes of an access's data, lowest offset first: bits [7:0], then [15:8], .. -/
def lanes (n : Nat) (v : Word) : Bytes := (List.range n).map fun i => (v >>> (8 * i)).setWidth 8

/-- The data whose lanes are a byte string. -/
def fromLanes : Bytes → Word
  | [] => 0
  | b :: bs => (fromLanes bs <<< 8) ||| b.setWidth 32

/-! ## Reads (R74, R79) -/

/-- The value of a 32-bit register; the write-only `CMD` and `CTRL` read as zero, unimplemented bits read as
zero. -/
def State.readReg (s : State) : Reg32 → Word
  | .id => Config.idValue
  | .cmd => 0
  | .status => s.statusWord
  | .errcode => s.errcode.setWidth 32
  | .errcmd => s.errcmd
  | .ctrl => 0
  | .irqen => s.irqen.setWidth 32
  | .arg0 => s.arg0
  | .res0 => s.res0
  | .res1 => s.res1
  | .dlen => s.dlen.setWidth 32
  | .hlen => s.hlen.setWidth 32
  | .outstat => s.outstatWord
  | .oidn => s.oidn.setWidth 32
  | .nap => s.nap.setWidth 32

/-- `byte_at` of a byte window for reads: `KEY` reads as zero, `OUTHEAD` is the head block. -/
def State.windowByte (s : State) (t : Target) (off : Nat) : Byte :=
  match t with
  | .outhead => s.outheadByte (off - 0x40)
  | .key => 0
  | .iv => Memory.read s.mem off
  | .hbuf => Memory.read s.mem off
  | .dbuf => Memory.read s.mem off
  | .reg _ => 0
  | .oidv => 0

/-- `MemRead(off, n)` while not busy (R74). It changes nothing. -/
def State.busRead (s : State) (off : Nat) (n : Width) : BusResponse :=
  match legalRow s.cfg off n with
  | none => .accessFault
  | some row =>
    match row.target with
    | .reg r => .data (s.readReg r)
    | .oidv => .data (s.oidv[(off - row.base) / 4]?.getD 0)
    | t => .data (fromLanes ((List.range n.bytes).map fun i => s.windowByte t (off + i)))

/-! ## Writes (R75, R79) -/

/-- A write of `CMD`: accepted when `ERR = 0`, else dropped (10_state.md R27). -/
def State.writeCmd (s : State) (c : Word) : State := if s.err then s else s.accept c

/-- A write of a 32-bit register: read-only ones ignore it, the others store their implemented bits. -/
def State.writeReg (s : State) (r : Reg32) (v : Word) : State :=
  match r with
  | .cmd => s.writeCmd v
  | .ctrl => s.ctrlAction v
  | .irqen => { s with irqen := v.setWidth 3 }
  | .arg0 => { s with arg0 := v }
  | .hlen => { s with hlen := v.setWidth 7 }
  | .oidn => { s with oidn := v.setWidth 5 }
  | .nap => { s with nap := v.setWidth 3 }
  | .id => s
  | .status => s
  | .errcode => s
  | .errcmd => s
  | .res0 => s
  | .res1 => s
  | .dlen => s
  | .outstat => s

/-- A write of n bytes into a byte window; the read-only `OUTHEAD` ignores it. -/
def State.writeWindow (s : State) (t : Target) (off n : Nat) (v : Word) : State :=
  match t with
  | .outhead => s
  | .iv => { s with mem := Memory.writeBytes s.mem off (lanes n v) }
  | .key => { s with mem := Memory.writeBytes s.mem off (lanes n v) }
  | .hbuf => { s with mem := Memory.writeBytes s.mem off (lanes n v) }
  | .dbuf => { s with mem := Memory.writeBytes s.mem off (lanes n v) }
  | .reg _ => s
  | .oidv => s

/-- `MemWrite(off, n, v)` while not busy, for a legal access to a row (R75). -/
def State.writeRow (s : State) (row : MapRow) (off n : Nat) (v : Word) : State :=
  match row.target with
  | .reg r => s.writeReg r v
  | .oidv => { s with oidv := s.oidv.setIfInBounds ((off - row.base) / 4) v }
  | t => s.writeWindow t off n v

/-- `MemWrite(off, n, v)` while not busy: an access fault changes nothing (R75, R77). -/
def State.busWrite (s : State) (off : Nat) (n : Width) (v : Word) : State × BusResponse :=
  match legalRow s.cfg off n with
  | none => (s, .accessFault)
  | some row => (s.writeRow row off n.bytes v, .written)

/-! ## One access of the HOST -/

/-- A HOST access performed while `BUSY = 0`, and its response recorded. An address outside the block is an access
fault (R77; log entry 9). -/
def State.hostAccess (s : State) (a : Access) : State :=
  match a with
  | .read addr n =>
    match blockOffset s.cfg addr with
    | none => s.respond .accessFault
    | some off => s.respond (s.busRead off n)
  | .write addr n v =>
    match blockOffset s.cfg addr with
    | none => s.respond .accessFault
    | some off => (s.busWrite off n v).1.respond (s.busWrite off n v).2

/-- Whether an access is answered while `BUSY = 1`: a read at the offset of `STATUS` (R74, R85). -/
def Access.answeredWhileBusy (cfg : Config) (a : Access) : Bool :=
  match a with
  | .read addr _ => addr == cfg.base + 0x08
  | .write _ _ _ => false

/-- The answer to a read at the offset of `STATUS` while `BUSY = 1`: bit 0 is 1 and the other bits are
unspecified (10_state.md R28), or an access fault if the width is wrong (R74's order; log entry 10). -/
def State.answerBusy (s : State) (a : Access) : State :=
  match a with
  | .read _ .word => { s with resp := some (.data s.busyStatusWord), freeCtr := s.freeCtr + 1 }
  | .read _ _ => s.respond .accessFault
  | .write _ _ _ => s

end Sys2Proof.Machine
end

