-- ==== Sys2Proof/Machine/Bignum.lean ====
section
/-! DEFINITION. Big-integer arithmetic, OS2IP and I2OSP, and the commands BN.LD and BN.ST (44_bignum.md). Values
are exact natural numbers (R235, R236). -/

namespace Sys2Proof.Machine

open Sys2Proof

/-- `bitlen(n)`: the number of bits, 0 for 0 (00_scope.md R14). -/
def bitlen (n : Nat) : Nat := if n = 0 then 0 else Nat.log2 n + 1

/-- `bytelen(n) = (bitlen(n) + 7) div 8` (R14, R238). -/
def bytelen (n : Nat) : Nat := (bitlen n + 7) / 8

/-- Square and multiply over k bits of the exponent. -/
def modexpLoop (m : Nat) : Nat → Nat → Nat → Nat → Nat
  | 0, _, _, acc => acc
  | k + 1, b, e, acc => modexpLoop m k (b * b % m) (e / 2) (if e % 2 = 1 then acc * b % m else acc)

/-- `modexp(b, e, m) = (b^e) mod m` (R237), computed bit by bit; Laws proves it equal to `b ^ e % m`. -/
def modexp (b e m : Nat) : Nat := modexpLoop m (bitlen e) (b % m) e (1 % m)

/-- `OS2IP(X)`: big-endian, the empty string gives 0 (R240). -/
def os2ip (x : Bytes) : Nat := x.foldl (fun acc b => 256 * acc + b.toNat) 0

/-- The L big-endian base-256 digits of v (R241's string, the digits above it dropped). -/
def bigEndian (v : Nat) : Nat → Bytes
  | 0 => []
  | l + 1 => BitVec.ofNat 8 (v / 256 ^ l) :: bigEndian v l

/-- `I2OSP(v, L)` (R241). -/
def i2osp (v l : Nat) : Except Exc Bytes :=
  if v ≥ 256 ^ l then .error .integerTooLarge else .ok (bigEndian v l)

/-- BN.LD's rule (R242). A register number that does not exist is IllegalCommand (30_encoding.md R105); decoding
never yields it. -/
def bnLdRule (reg : BitVec 6) (l : BitVec 16) (s : State) : Except Exc State :=
  if bnRegExists s.cfg reg = false then .error .illegalCommand
  else if l.toNat > s.cfg.kmax then .error .contractViolation
  else .ok (s.putBn reg (os2ip (s.dbuf l.toNat)))

/-- BN.ST's rule (R243). A register other than `N`, `E`, `M`, `S` is IllegalCommand (R105); decoding never
yields it. -/
def bnStRule (reg : BitVec 6) (l : BitVec 16) (s : State) : Except Exc State :=
  if bnRegStorable reg = false then .error .illegalCommand
  else if l.toNat > s.cfg.dbufSize then .error .contractViolation
  else if s.bnValid reg = false then .error .invalidKey
  else (i2osp (s.bnVal reg) l.toNat).map s.putDbuf

/-- BN.LD (R242). -/
def execBnLd (reg : BitVec 6) (l : BitVec 16) (s : State) : Host.Outcome State Fault Refusal :=
  finish (.bnLd reg l) s (bnLdRule reg l s)

/-- BN.ST (R243). -/
def execBnSt (reg : BitVec 6) (l : BitVec 16) (s : State) : Host.Outcome State Fault Refusal :=
  finish (.bnSt reg l) s (bnStRule reg l s)

end Sys2Proof.Machine
end

