-- ==== Sys2Proof/Machine/Der.lean ====
section
/-! DEFINITION. DER lengths, object identifiers, algorithm identifiers, and the commands DER.LENENC, DER.LENDEC,
OID.ENC, OID.DEC, ALGID.ENC, OID.LDALG (46_der.md). -/

namespace Sys2Proof.Machine

open Sys2Proof

/-! ## Lengths -/

/-- `derlen(v)` (R281). -/
def derlen (v : Nat) : Bytes :=
  if v < 128 then [BitVec.ofNat 8 v]
  else (0x80#8 ||| BitVec.ofNat 8 (bytelen v)) :: bigEndian v (bytelen v)

/-- `derlen_dec(X)`: the value and the number of bytes used (R284). -/
def derlenDec (x : Bytes) : Except Exc (Nat × Nat) :=
  match x with
  | [] => .error .decodeError
  | x0 :: rest =>
    if x0.toNat < 0x80 then .ok (x0.toNat, 1)
    else
      let count := (x0 &&& 0x7F#8).toNat
      if count = 0 ∨ count > 4 then .error .decodeError
      else if rest.length < count then .error .decodeError
      else
        let v := os2ip (rest.take count)
        if rest.headD 0 = 0 then .error .decodeError
        else if v < 128 then .error .decodeError
        else if v ≥ 2 ^ 31 then .error .decodeError
        else .ok (v, 1 + count)

/-! ## Object identifiers -/

/-- n base-128 digits of c, most significant first, the continuation bit 0x80 on all but the last (R286). -/
def base128Digits (c : Nat) : Nat → Bytes
  | 0 => []
  | n + 1 =>
    (BitVec.ofNat 8 (c / 128 ^ n % 128) ||| (if n = 0 then 0x00#8 else 0x80#8)) :: base128Digits c n

/-- `base128(c)` (R286). -/
def base128 (c : Nat) : Bytes := base128Digits c (max 1 ((bitlen c + 6) / 7))

/-- The value bytes of an identifier: the first two components in one byte, then each other one (R287). -/
def oidValue (v0 v1 : Nat) (others : List Nat) : Bytes :=
  BitVec.ofNat 8 (40 * v0 + v1) :: others.flatMap base128

/-- `oid_enc(o)` (R287). -/
def oidEnc (o : List Nat) : Except Exc Bytes :=
  match o with
  | v0 :: v1 :: others =>
    if o.length > Config.oidMax then .error .contractViolation
    else if v0 > 2 then .error .contractViolation
    else if v0 < 2 ∧ v1 > 39 then .error .contractViolation
    else if 40 * v0 + v1 > 255 then .error .contractViolation
    else .ok (0x06#8 :: derlen (oidValue v0 v1 others).length ++ oidValue v0 v1 others)
  | _ => .error .contractViolation

/-- R291's loop over the value bytes after the first: `acc`, `open` and the components so far. -/
def oidDecLoop : Bytes → Nat → Bool → List Nat → Except Exc (List Nat)
  | [], _, isOpen, o => if isOpen then .error .decodeError else .ok o
  | x :: xs, acc, isOpen, o =>
    if !isOpen ∧ x = 0x80 then .error .decodeError
    else
      let acc' := acc * 128 + (x &&& 0x7F#8).toNat
      if acc' ≥ 2 ^ 32 then .error .decodeError
      else if x.getLsbD 7 then oidDecLoop xs acc' true o
      else if (o ++ [acc']).length > Config.oidMax then .error .decodeError
      else oidDecLoop xs 0 false (o ++ [acc'])

/-- The components of the value bytes: the first byte split in two, then the loop (R291). -/
def oidDecValue (val : Bytes) : Except Exc (List Nat) :=
  match val with
  | [] => .error .decodeError
  | b :: rest =>
    let v0 := min (b.toNat / 40) 2
    oidDecLoop rest 0 false [v0, b.toNat - 40 * v0]

/-- `oid_dec(X)`: the components and the number of bytes used (R291). -/
def oidDec (x : Bytes) : Except Exc (List Nat × Nat) :=
  match x with
  | [] => .error .decodeError
  | tag :: rest =>
    if tag ≠ 0x06 then .error .decodeError
    else
      match derlenDec rest with
      | .error e => .error e
      | .ok (n, c) =>
        if n < 1 ∨ x.length < 1 + c + n then .error .decodeError
        else (oidDecValue ((rest.drop c).take n)).map fun o => (o, 1 + c + n)

/-! ## Algorithm identifiers -/

/-- `algid_enc(alg)` of a row of the table (R294): SEQUENCE of the identifier and NULL. -/
def algidEnc (row : AlgRow) : Except Exc Bytes :=
  (oidEnc row.oid).map fun e => 0x30#8 :: derlen (e ++ [0x05#8, 0x00#8]).length ++ (e ++ [0x05#8, 0x00#8])

/-! ## The commands -/

/-- DER.LENENC's rule (R283). -/
def derLenencRule (s : State) : Except Exc State :=
  if s.arg0.toNat ≥ 2 ^ 31 then .error .contractViolation else .ok (s.putDbuf (derlen s.arg0.toNat))

/-- DER.LENDEC's rule (R285). -/
def derLendecRule (l : BitVec 16) (s : State) : Except Exc State :=
  if l.toNat > s.cfg.dbufSize then .error .contractViolation
  else (derlenDec (s.dbuf l.toNat)).map fun r => s.putRes r.1 r.2

/-- OID.ENC's rule (R289). -/
def oidEncRule (s : State) : Except Exc State := (oidEnc s.components).map s.putDbuf

/-- OID.DEC's rule (R292). -/
def oidDecRule (l : BitVec 16) (s : State) : Except Exc State :=
  if l.toNat > s.cfg.dbufSize then .error .contractViolation
  else (oidDec (s.dbuf l.toNat)).map fun r => (s.putOid r.1).putRes r.1.length r.2

/-- ALGID.ENC's rule (R295). -/
def algidEncRule (alg : BitVec 4) (s : State) : Except Exc State :=
  match algOf alg with
  | none => .error .unsupportedAlgorithm
  | some row => (algidEnc row).map s.putDbuf

/-- OID.LDALG's rule (R296). -/
def oidLdalgRule (alg : BitVec 4) (s : State) : Except Exc State :=
  match algOf alg with
  | none => .error .unsupportedAlgorithm
  | some row => .ok ((s.putOid row.oid).putRes row.hLen 0)

/-- DER.LENENC (R283). -/
def execDerLenenc (s : State) : Host.Outcome State Fault Refusal := finish .derLenenc s (derLenencRule s)

/-- DER.LENDEC (R285). -/
def execDerLendec (l : BitVec 16) (s : State) : Host.Outcome State Fault Refusal :=
  finish (.derLendec l) s (derLendecRule l s)

/-- OID.ENC (R289). -/
def execOidEnc (s : State) : Host.Outcome State Fault Refusal := finish .oidEnc s (oidEncRule s)

/-- OID.DEC (R292). -/
def execOidDec (l : BitVec 16) (s : State) : Host.Outcome State Fault Refusal :=
  finish (.oidDec l) s (oidDecRule l s)

/-- ALGID.ENC (R295). -/
def execAlgidEnc (alg : BitVec 4) (s : State) : Host.Outcome State Fault Refusal :=
  finish (.algidEnc alg) s (algidEncRule alg s)

/-- OID.LDALG (R296). -/
def execOidLdalg (alg : BitVec 4) (s : State) : Host.Outcome State Fault Refusal :=
  finish (.oidLdalg alg) s (oidLdalgRule alg s)

end Sys2Proof.Machine
end

