-- ==== Sys2Proof/Machine/Rsa.lean ====
section
/-! DEFINITION. The RSA primitives and the commands RSA.SP1 and RSA.VP1 (45_rsa.md). -/

namespace Sys2Proof.Machine

open Sys2Proof

/-! ## Key checks: true when the key is refused (R264) -/

/-- `keycheck_pub()`. -/
def State.keycheckPub (s : State) : Bool :=
  !s.bnValid regN || !s.bnValid regE || s.bnVal regN == 0

/-- `keycheck_pair()`. -/
def State.keycheckPair (s : State) : Bool :=
  !s.bnValid regN || !s.bnValid regD || s.bnVal regN == 0

/-- `keycheck_mp()`. -/
def State.keycheckMp (s : State) : Bool :=
  let js := List.range s.nap.toNat
  decide (s.nap.toNat > s.cfg.apMax) ||
  [regN, regP, regQ, regDP, regDQ, regQINV].any (fun r => !s.bnValid r) ||
  js.any (fun j => !s.bnValid (regR j) || !s.bnValid (regDA j) || !s.bnValid (regT j)) ||
  s.bnVal regN == 0 || s.bnVal regP == 0 || s.bnVal regQ == 0 || js.any (fun j => s.bnVal (regR j) == 0)

/-- The key check of the selected form (R260). -/
def State.keycheck (s : State) (form : KeyForm) : Bool :=
  match form with
  | .pair => s.keycheckPair
  | .multiPrime => s.keycheckMp

/-! ## RSASP1 -/

/-- `RSASP1_pair(n, d, m)` (R261). -/
def rsasp1Pair (n d m : Nat) : Except Exc Nat :=
  if m ≥ n then .error .outOfRange else .ok (modexp m d n)

/-- `((a - b) * c) mod m`, never negative also for a < b (R237, R263). -/
def subMulMod (a b c m : Nat) : Nat := ((((a : Int) - (b : Int)) * (c : Int)) % (m : Int)).toNat

/-- R263's loop over the additional triplets (r_i, d_i, t_i): `R`, `prev` and `s` as it carries them. -/
def garnerLoop (m : Nat) : List (Nat × Nat × Nat) → Nat → Nat → Nat → Nat
  | [], _, _, s => s
  | (r, d, t) :: rest, bigR, prev, s =>
    let bigR' := bigR * prev
    garnerLoop m rest bigR' r (s + bigR' * subMulMod (modexp m d r) s t r)

/-- `RSASP1_mp`'s value once the range check has passed (R263). -/
def rsasp1MpValue (p q dP dQ qInv : Nat) (more : List (Nat × Nat × Nat)) (m : Nat) : Nat :=
  let s1 := modexp m dP p
  let s2 := modexp m dQ q
  garnerLoop m more p q (s2 + q * subMulMod s1 s2 qInv p)

/-- `RSASP1_mp` (R263). -/
def rsasp1Mp (n p q dP dQ qInv : Nat) (more : List (Nat × Nat × Nat)) (m : Nat) : Except Exc Nat :=
  if m ≥ n then .error .outOfRange else .ok (rsasp1MpValue p q dP dQ qInv more m)

/-- RSASP1 on a representative with the key registers of the selected form (R262, R318). -/
def State.rsasp1 (s : State) (form : KeyForm) (m : Nat) : Except Exc Nat :=
  match form with
  | .pair => rsasp1Pair (s.bnVal regN) (s.bnVal regD) m
  | .multiPrime =>
    rsasp1Mp (s.bnVal regN) (s.bnVal regP) (s.bnVal regQ) (s.bnVal regDP) (s.bnVal regDQ) (s.bnVal regQINV)
      s.triplets m

/-! ## RSAVP1 -/

/-- `RSAVP1(n, e, s)` (R265). -/
def rsavp1 (n e s : Nat) : Except Exc Nat := if s ≥ n then .error .outOfRange else .ok (modexp s e n)

/-! ## The commands -/

/-- RSA.SP1's rule (R262). The last check is made for the MultiPrime form. -/
def rsaSp1Rule (form : KeyForm) (s : State) : Except Exc State :=
  if s.keycheck form || !s.bnValid regM then .error .invalidKey
  else
    match s.rsasp1 form (s.bnVal regM) with
    | .error x => .error x
    | .ok v =>
      if form = .multiPrime ∧ v ≥ 2 ^ (8 * s.cfg.kmax) then .error .invalidKey
      else .ok (s.putBn regS v)

/-- RSA.VP1's rule (R266). -/
def rsaVp1Rule (s : State) : Except Exc State :=
  if s.keycheckPub || !s.bnValid regS then .error .invalidKey
  else (rsavp1 (s.bnVal regN) (s.bnVal regE) (s.bnVal regS)).map (s.putBn regM)

/-- RSA.SP1 (R262). -/
def execRsaSp1 (form : KeyForm) (s : State) : Host.Outcome State Fault Refusal :=
  finish (.rsaSp1 form) s (rsaSp1Rule form s)

/-- RSA.VP1 (R266). -/
def execRsaVp1 (s : State) : Host.Outcome State Fault Refusal := finish .rsaVp1 s (rsaVp1Rule s)

end Sys2Proof.Machine
end

