-- ==== Sys2Proof/Machine/Pkcs.lean ====
section
/-! DEFINITION. EMSA-PKCS1-v1.5 encoding, signing and fail-closed verification, and the commands EMSA.ENC,
PKCS.SIGN, PKCS.VERIFY (47_pkcs1.md). -/

namespace Sys2Proof.Machine

open Sys2Proof

/-- `buildT(alg, H)` in the instance's form (R311). -/
def buildT (form : EmsaTForm) (row : AlgRow) (h : Bytes) : Except Exc Bytes :=
  (algidEnc row).map fun a =>
    match form with
    | .literal => a ++ h
    | .digestInfo =>
      let inner := a ++ 0x04#8 :: derlen h.length ++ h
      0x30#8 :: derlen inner.length ++ inner

/-- `emsa(alg, H, emLen)` (R312). -/
def emsa (form : EmsaTForm) (row : AlgRow) (h : Bytes) (emLen : Nat) : Except Exc Bytes :=
  if h.length > row.hLen then .error .messageTooLong
  else
    match buildT form row h with
    | .error x => .error x
    | .ok t =>
      if emLen < t.length + 11 then .error .encodedMessageTooShort
      else .ok (0x00#8 :: 0x01#8 :: List.replicate (emLen - t.length - 3) 0xFF#8 ++ 0x00#8 :: t)

/-- EMSA.ENC's rule (R315, R313). -/
def emsaEncRule (alg : BitVec 4) (l : BitVec 16) (s : State) : Except Exc State :=
  match algOf alg with
  | none => .error .unsupportedAlgorithm
  | some row =>
    if l.toNat > s.cfg.dbufSize then .error .contractViolation
    else if s.hlen.toNat > row.hLen then .error .messageTooLong
    else (emsa s.cfg.emsaTForm row (s.hbuf s.hlen.toNat) l.toNat).map s.putDbuf

/-- PKCS.SIGN's rule (R318). -/
def pkcsSignRule (alg : BitVec 4) (form : KeyForm) (s : State) : Except Exc State :=
  match algOf alg with
  | none => .error .unsupportedAlgorithm
  | some row =>
    if s.keycheck form then .error .invalidKey
    else
      let k := bytelen (s.bnVal regN)
      if s.hlen.toNat > row.hLen then .error .messageTooLong
      else
        match emsa s.cfg.emsaTForm row (s.hbuf s.hlen.toNat) k with
        | .error x => .error x
        | .ok em =>
          match s.rsasp1 form (os2ip em) with
          | .error x => .error x
          | .ok v => if v ≥ 256 ^ k then .error .invalidKey else .ok (s.putDbuf (bigEndian v k))

/-- The boolean of PKCS.VERIFY once its exceptions are excluded (R320): every failure inside is false. -/
def State.verifies (s : State) (row : AlgRow) (l : Nat) : Bool :=
  let n := s.bnVal regN
  let k := bytelen n
  if l ≠ k then false
  else
    let v := os2ip (s.dbuf l)
    if v ≥ n then false
    else if s.hlen.toNat > row.hLen then false
    else
      match emsa s.cfg.emsaTForm row (s.hbuf s.hlen.toNat) k with
      | .error _ => false
      | .ok em => bigEndian (modexp v (s.bnVal regE) n) k == em

/-- PKCS.VERIFY's rule (R320). -/
def pkcsVerifyRule (alg : BitVec 4) (l : BitVec 16) (s : State) : Except Exc State :=
  match algOf alg with
  | none => .error .unsupportedAlgorithm
  | some row =>
    if l.toNat > s.cfg.dbufSize then .error .contractViolation
    else if s.keycheckPub then .error .invalidKey
    else .ok (s.putRes (if s.verifies row l.toNat then 1 else 0) 0)

/-- EMSA.ENC (R315). -/
def execEmsaEnc (alg : BitVec 4) (l : BitVec 16) (s : State) : Host.Outcome State Fault Refusal :=
  finish (.emsaEnc alg l) s (emsaEncRule alg l s)

/-- PKCS.SIGN (R318). -/
def execPkcsSign (alg : BitVec 4) (form : KeyForm) (s : State) : Host.Outcome State Fault Refusal :=
  finish (.pkcsSign alg form) s (pkcsSignRule alg form s)

/-- PKCS.VERIFY (R320). -/
def execPkcsVerify (alg : BitVec 4) (l : BitVec 16) (s : State) : Host.Outcome State Fault Refusal :=
  finish (.pkcsVerify alg l) s (pkcsVerifyRule alg l s)

end Sys2Proof.Machine
end

