-- ==== Sys2Proof/Machine/Gf.lean ====
section
/-! DEFINITION. GF(2^8) arithmetic, the AES State transforms, and the commands GF.MUL and ST.*
(40_gf_state.md). -/

namespace Sys2Proof.Machine

open Sys2Proof

/-! ## Field arithmetic -/

/-- Field addition (R130). -/
def plusGF (a b : Byte) : Byte := a ^^^ b

/-- The iterations of R131's loop: `a`, `b` and the accumulator `p`. -/
def gfmulLoop : Nat → Byte → Byte → Byte → Byte
  | 0, _, _, p => p
  | k + 1, a, b, p =>
    gfmulLoop k
      (if a.getLsbD 7 then (a <<< 1) ^^^ 0x1B#8 else a <<< 1)
      (b >>> 1)
      (if b.getLsbD 0 then p ^^^ a else p)

/-- The field product (R131). -/
def gfmul (a b : Byte) : Byte := gfmulLoop 8 a b 0

/-! ## The substitution tables -/

/-- The rows of R136's table: row h is `SBOX[16h .. 16h+15]`, first entry leftmost. -/
def sboxRows : List (BitVec 128) :=
  [ 0x637c777bf26b6fc53001672bfed7ab76#128, 0xca82c97dfa5947f0add4a2af9ca472c0#128,
    0xb7fd9326363ff7cc34a5e5f171d83115#128, 0x04c723c31896059a071280e2eb27b275#128,
    0x09832c1a1b6e5aa0523bd6b329e32f84#128, 0x53d100ed20fcb15b6acbbe394a4c58cf#128,
    0xd0efaafb434d338545f9027f503c9fa8#128, 0x51a3408f929d38f5bcb6da2110fff3d2#128 ] ++
  [ 0xcd0c13ec5f974417c4a77e3d645d1973#128, 0x60814fdc222a908846eeb814de5e0bdb#128,
    0xe0323a0a4906245cc2d3ac629195e479#128, 0xe7c8376d8dd54ea96c56f4ea657aae08#128,
    0xba78252e1ca6b4c6e8dd741f4bbd8b8a#128, 0x703eb5664803f60e613557b986c11d9e#128,
    0xe1f8981169d98e949b1e87e9ce5528df#128, 0x8ca1890dbfe6426841992d0fb054bb16#128 ]

/-- The rows of R137's table. -/
def invSboxRows : List (BitVec 128) :=
  [ 0x52096ad53036a538bf40a39e81f3d7fb#128, 0x7ce339829b2fff87348e4344c4dee9cb#128,
    0x547b9432a6c2233dee4c950b42fac34e#128, 0x082ea16628d924b2765ba2496d8bd125#128,
    0x72f8f66486689816d4a45ccc5d65b692#128, 0x6c704850fdedb9da5e154657a78d9d84#128,
    0x90d8ab008cbcd30af7e45805b8b34506#128, 0xd02c1e8fca3f0f02c1afbd0301138a6b#128 ] ++
  [ 0x3a9111414f67dcea97f2cfcef0b4e673#128, 0x96ac7422e7ad3585e2f937e81c75df6e#128,
    0x47f11a711d29c5896fb7620eaa18be1b#128, 0xfc563e4bc6d279209adbc0fe78cd5af4#128,
    0x1fdda8338807c731b11210592780ec5f#128, 0x60517fa919b54a0d2de57a9f93c99cef#128,
    0xa0e03b4dae2af5b0c8ebbb3c83539961#128, 0x172b047eba77d626e169146355210c7d#128 ]

/-- Entry x of a table: row = high hex digit, column = low hex digit, columns from the left (R136). -/
def tableByte (rows : List (BitVec 128)) (x : Byte) : Byte :=
  ((rows.getD (x.toNat / 16) 0) >>> (8 * (15 - x.toNat % 16))).setWidth 8

/-- `SBOX[x]` (R136). -/
def sbox (x : Byte) : Byte := tableByte sboxRows x

/-- `INVSBOX[x]` (R137). -/
def invSbox (x : Byte) : Byte := tableByte invSboxRows x

/-! ## The transforms -/

/-- A byte function on each of the four bytes of a column. -/
def mapQuad (f : Byte → Byte) (q : Quad) : Quad := ⟨f q.b0, f q.b1, f q.b2, f q.b3⟩

/-- `SubBytes` (R138). -/
def subBytes (s : Block) : Block :=
  ⟨mapQuad sbox s.c0, mapQuad sbox s.c1, mapQuad sbox s.c2, mapQuad sbox s.c3⟩

/-- `InvSubBytes` (R139). -/
def invSubBytes (s : Block) : Block :=
  ⟨mapQuad invSbox s.c0, mapQuad invSbox s.c1, mapQuad invSbox s.c2, mapQuad invSbox s.c3⟩

/-- `ShiftRows` (R140): row r of column c comes from column (c + r) mod 4. -/
def shiftRows (s : Block) : Block :=
  ⟨⟨s.c0.b0, s.c1.b1, s.c2.b2, s.c3.b3⟩,
   ⟨s.c1.b0, s.c2.b1, s.c3.b2, s.c0.b3⟩,
   ⟨s.c2.b0, s.c3.b1, s.c0.b2, s.c1.b3⟩,
   ⟨s.c3.b0, s.c0.b1, s.c1.b2, s.c2.b3⟩⟩

/-- `InvShiftRows` (R141): row r of column (c + r) mod 4 comes from column c. -/
def invShiftRows (s : Block) : Block :=
  ⟨⟨s.c0.b0, s.c3.b1, s.c2.b2, s.c1.b3⟩,
   ⟨s.c1.b0, s.c0.b1, s.c3.b2, s.c2.b3⟩,
   ⟨s.c2.b0, s.c1.b1, s.c0.b2, s.c3.b3⟩,
   ⟨s.c3.b0, s.c2.b1, s.c1.b2, s.c0.b3⟩⟩

/-- One column of `MixColumns` (R142). -/
def mixColumn (a : Quad) : Quad :=
  ⟨gfmul 0x02 a.b0 ^^^ gfmul 0x03 a.b1 ^^^ a.b2 ^^^ a.b3,
   a.b0 ^^^ gfmul 0x02 a.b1 ^^^ gfmul 0x03 a.b2 ^^^ a.b3,
   a.b0 ^^^ a.b1 ^^^ gfmul 0x02 a.b2 ^^^ gfmul 0x03 a.b3,
   gfmul 0x03 a.b0 ^^^ a.b1 ^^^ a.b2 ^^^ gfmul 0x02 a.b3⟩

/-- `MixColumns` (R142). -/
def mixColumns (s : Block) : Block :=
  ⟨mixColumn s.c0, mixColumn s.c1, mixColumn s.c2, mixColumn s.c3⟩

/-- One column of `InvMixColumns` (R143). -/
def invMixColumn (a : Quad) : Quad :=
  ⟨gfmul 0x0e a.b0 ^^^ gfmul 0x0b a.b1 ^^^ gfmul 0x0d a.b2 ^^^ gfmul 0x09 a.b3,
   gfmul 0x09 a.b0 ^^^ gfmul 0x0e a.b1 ^^^ gfmul 0x0b a.b2 ^^^ gfmul 0x0d a.b3,
   gfmul 0x0d a.b0 ^^^ gfmul 0x09 a.b1 ^^^ gfmul 0x0e a.b2 ^^^ gfmul 0x0b a.b3,
   gfmul 0x0b a.b0 ^^^ gfmul 0x0d a.b1 ^^^ gfmul 0x09 a.b2 ^^^ gfmul 0x0e a.b3⟩

/-- `InvMixColumns` (R143). -/
def invMixColumns (s : Block) : Block :=
  ⟨invMixColumn s.c0, invMixColumn s.c1, invMixColumn s.c2, invMixColumn s.c3⟩

/-- The round key of a round: `W[4*round] || .. || W[4*round+3]` (R144). -/
def roundKey (w : Vector Quad 60) (round : Nat) : Block :=
  ⟨w[4 * round]?.getD Quad.zero, w[4 * round + 1]?.getD Quad.zero,
   w[4 * round + 2]?.getD Quad.zero, w[4 * round + 3]?.getD Quad.zero⟩

/-- `AddRoundKey` (R144). -/
def addRoundKey (s : Block) (w : Vector Quad 60) (round : Nat) : Block := xorBlock s (roundKey w round)

/-! ## The primitive commands -/

/-- GF.MUL's rule (R150). -/
def gfMulRule (l : BitVec 16) (s : State) : Except Exc State :=
  if l ≠ 2 then .error .contractViolation
  else .ok (s.putDbuf [gfmul (Memory.read s.mem dbufBase) (Memory.read s.mem (dbufBase + 1))])

/-- The common template of the ST commands (R149). -/
def stRule (f : Block → Block) (l : BitVec 16) (s : State) : Except Exc State :=
  if l ≠ 16 then .error .contractViolation
  else .ok (s.putDbuf (blockBytes (f s.dbufBlock)))

/-- ST.ADDROUNDKEY's rule (R157). -/
def stAddroundkeyRule (round : BitVec 4) (l : BitVec 16) (s : State) : Except Exc State :=
  if l ≠ 16 then .error .contractViolation
  else if s.kvalid = false then .error .invalidKey
  else if round.toNat > s.aesMode.nr then .error .contractViolation
  else stRule (fun b => addRoundKey b s.w round.toNat) l s

/-- GF.MUL (R150). -/
def execGfMul (l : BitVec 16) (s : State) : Host.Outcome State Fault Refusal :=
  finish (.gfMul l) s (gfMulRule l s)

/-- ST.SUBBYTES (R151). -/
def execStSubbytes (l : BitVec 16) (s : State) : Host.Outcome State Fault Refusal :=
  finish (.stSubbytes l) s (stRule subBytes l s)

/-- ST.INVSUBBYTES (R152). -/
def execStInvsubbytes (l : BitVec 16) (s : State) : Host.Outcome State Fault Refusal :=
  finish (.stInvsubbytes l) s (stRule invSubBytes l s)

/-- ST.SHIFTROWS (R153). -/
def execStShiftrows (l : BitVec 16) (s : State) : Host.Outcome State Fault Refusal :=
  finish (.stShiftrows l) s (stRule shiftRows l s)

/-- ST.INVSHIFTROWS (R154). -/
def execStInvshiftrows (l : BitVec 16) (s : State) : Host.Outcome State Fault Refusal :=
  finish (.stInvshiftrows l) s (stRule invShiftRows l s)

/-- ST.MIXCOLUMNS (R155). -/
def execStMixcolumns (l : BitVec 16) (s : State) : Host.Outcome State Fault Refusal :=
  finish (.stMixcolumns l) s (stRule mixColumns l s)

/-- ST.INVMIXCOLUMNS (R156). -/
def execStInvmixcolumns (l : BitVec 16) (s : State) : Host.Outcome State Fault Refusal :=
  finish (.stInvmixcolumns l) s (stRule invMixColumns l s)

/-- ST.ADDROUNDKEY (R157). -/
def execStAddroundkey (round : BitVec 4) (l : BitVec 16) (s : State) : Host.Outcome State Fault Refusal :=
  finish (.stAddroundkey round l) s (stAddroundkeyRule round l s)

end Sys2Proof.Machine
end

