-- ==== Sys2Proof/Machine/Aes.lean ====
section
/-! DEFINITION. Key expansion (41_key_expansion.md), Cipher and InvCipher (42_cipher.md), and the commands
AES.KEYEXP, AES.ENCB, AES.DECB. -/

namespace Sys2Proof.Machine

open Sys2Proof

/-! ## Key expansion -/

/-- `RotWord` (R172). -/
def rotWord (q : Quad) : Quad := ⟨q.b1, q.b2, q.b3, q.b0⟩

/-- `SubWord` (R172). -/
def subWord (q : Quad) : Quad := mapQuad sbox q

/-- `RCON[j]`, j >= 1, by doubling from 0x01; `RCON[0]` is never read (R173, R177). -/
def rcon : Nat → Byte
  | 0 => 0
  | 1 => 0x01
  | j + 2 => gfmul 0x02 (rcon (j + 1))

/-- A word with the round constant XORed into its first byte (R173, R174). -/
def xorRcon (q : Quad) (j : Nat) : Quad := { q with b0 := q.b0 ^^^ rcon j }

/-- Word i of the schedule from the words before it (R174's loop body). -/
def nextWord (nk i : Nat) (ws : List Quad) : Quad :=
  let temp := ws.getD (i - 1) Quad.zero
  let temp' :=
    if i % nk = 0 then xorRcon (subWord (rotWord temp)) (i / nk)
    else if nk > 6 ∧ i % nk = 4 then subWord temp
    else temp
  xorQuad (ws.getD (i - nk) Quad.zero) temp'

/-- n more words after the words so far (R174's loop). -/
def expandWords (nk : Nat) : Nat → List Quad → List Quad
  | 0, ws => ws
  | n + 1, ws => expandWords nk n (ws ++ [nextWord nk ws.length ws])

/-- `keyExpansion(key, Nk, Nr)`: the words w[0 .. 4*(Nr+1)-1] from the Nk key words (R174). -/
def keyExpansion (key : List Quad) (nk nr : Nat) : List Quad := expandWords nk (4 * (nr + 1) - nk) key

/-- The schedule register after a derivation: the words, the rest zero (R175). -/
def scheduleOf (ws : List Quad) : Vector Quad 60 := Vector.ofFn fun i => ws.getD i.val Quad.zero

/-- AES.KEYEXP's rule (R175, R176). -/
def aesKeyexpRule (ks : BitVec 2) (s : State) : Except Exc State :=
  match aesModeOf ks with
  | none => .error .contractViolation
  | some m =>
    if s.phase = .active then .error .contractViolation
    else
      .ok { s with
        w := scheduleOf (keyExpansion ((List.range m.nk).map s.keyWord) m.nk m.nr)
        aesMode := m
        kvalid := true }

/-- AES.KEYEXP (R175). -/
def execAesKeyexp (ks : BitVec 2) (s : State) : Host.Outcome State Fault Refusal :=
  finish (.aesKeyexp ks) s (aesKeyexpRule ks s)

/-! ## The block transforms -/

/-- n full rounds from round number r up (R185). -/
def cipherRounds (w : Vector Quad 60) : Nat → Nat → Block → Block
  | 0, _, s => s
  | n + 1, r, s => cipherRounds w n (r + 1) (addRoundKey (mixColumns (shiftRows (subBytes s))) w r)

/-- `Cipher(in, W, Nr)` (R185). -/
def cipher (b : Block) (w : Vector Quad 60) (nr : Nat) : Block :=
  addRoundKey (shiftRows (subBytes (cipherRounds w (nr - 1) 1 (addRoundKey b w 0)))) w nr

/-- The middle rounds of InvCipher from round number n down to 1 (R186). -/
def invCipherRounds (w : Vector Quad 60) : Nat → Block → Block
  | 0, s => s
  | n + 1, s => invCipherRounds w n (invMixColumns (addRoundKey (invSubBytes (invShiftRows s)) w (n + 1)))

/-- `InvCipher(in, W, Nr)` (R186). -/
def invCipher (b : Block) (w : Vector Quad 60) (nr : Nat) : Block :=
  addRoundKey (invSubBytes (invShiftRows (invCipherRounds w (nr - 1) (addRoundKey b w nr)))) w 0

/-- The common rule of AES.ENCB and AES.DECB (R188, R189). -/
def blockRule (f : Block → Vector Quad 60 → Nat → Block) (l : BitVec 16) (s : State) : Except Exc State :=
  if l ≠ 16 then .error .contractViolation
  else if s.kvalid = false then .error .invalidKey
  else .ok (s.putDbuf (blockBytes (f s.dbufBlock s.w s.aesMode.nr)))

/-- AES.ENCB (R188). -/
def execAesEncb (l : BitVec 16) (s : State) : Host.Outcome State Fault Refusal :=
  finish (.aesEncb l) s (blockRule cipher l s)

/-- AES.DECB (R189). -/
def execAesDecb (l : BitVec 16) (s : State) : Host.Outcome State Fault Refusal :=
  finish (.aesDecb l) s (blockRule invCipher l s)

end Sys2Proof.Machine
end

