-- ==== Sys2Proof/Machine/Session.lean ====
section
/-! DEFINITION. The streaming session: the per-block transform, buffering, padding, and the commands SES.INIT,
SES.UPDATE, SES.FINAL (43_modes.md). -/

namespace Sys2Proof.Machine

open Sys2Proof

/-- `xform` of one block with the chaining value: the output block and the chaining value after it, for ECB
(R202), CBC encryption (R203) and CBC decryption (R204). -/
def xform (dir : Dir) (chainMode : ChainMode) (w : Vector Quad 60) (nr : Nat) (chain b : Block) : Block × Block :=
  match chainMode, dir with
  | .ecb, .encrypt => (cipher b w nr, chain)
  | .ecb, .decrypt => (invCipher b w nr, chain)
  | .cbc, .encrypt =>
    let c := cipher (xorBlock b chain) w nr
    (c, c)
  | .cbc, .decrypt => (xorBlock (invCipher b w nr) chain, b)

/-- `xform` on blocks in stream order, each reading the chaining value the one before it left (R205): the output
blocks and the last chaining value. -/
def xformAll (dir : Dir) (chainMode : ChainMode) (w : Vector Quad 60) (nr : Nat) :
    Block → List Block → List Block × Block
  | chain, [] => ([], chain)
  | chain, b :: bs =>
    let one := xform dir chainMode w nr chain b
    let rest := xformAll dir chainMode w nr one.2 bs
    (one.1 :: rest.1, rest.2)

/-- The first n sixteen-byte chunks of a byte string (R206). -/
def chunks : Nat → Bytes → List Block
  | 0, _ => []
  | n + 1, x => blockOfBytes (x.take 16) :: chunks n (x.drop 16)

/-- Transform blocks in the session's mode, append them to `OUTQ`, keep the chaining value (R206). -/
def State.emit (s : State) (bs : List Block) : State :=
  let r := xformAll s.dir s.chainMode s.w s.aesMode.nr s.chain bs
  { s with outq := s.outq ++ r.1.map .block, chain := r.2 }

/-- `absorb(data)` (R206). -/
def State.absorb (s : State) (data : Bytes) : State :=
  let d := s.buffered ++ data
  let n := d.length / 16
  let rest := d.drop (16 * n)
  { s.emit (chunks n d) with buf := overwriteBlock s.buf rest, bufLen := BitVec.ofNat 4 rest.length }

/-- `padblocks(rest)` (R207): zero or one final block. NONE with a remainder never reaches it. -/
def padBlocks (pad : Pad) (rest : Bytes) : List Block :=
  match pad with
  | .none => []
  | .zero => if rest.length = 0 then [] else [blockOfFn fun i => rest.getD i 0]
  | .pkcs7 => [blockOfFn fun i => rest.getD i (BitVec.ofNat 8 (16 - rest.length))]

/-- How many padding blocks SES.FINAL appends after a remainder of r bytes (R211's k). -/
def padCount (pad : Pad) (r : Nat) : Nat :=
  match pad with
  | .none => 0
  | .zero => if r = 0 then 0 else 1
  | .pkcs7 => 1

/-- SES.INIT's rule (R209). The reserved `pad` = 3 is IllegalCommand (30_encoding.md R105); decoding never
yields it. -/
def sesInitRule (dir : Dir) (chain : ChainMode) (pad : BitVec 2) (s : State) : Except Exc State :=
  match padOf pad with
  | none => .error .illegalCommand
  | some p =>
    if s.kvalid = false then .error .invalidKey
    else
      .ok { s with
        dir := dir
        chainMode := chain
        pad := p
        chain := s.ivBlock
        buf := Block.zero
        bufLen := 0
        outq := []
        phase := .active }

/-- SES.UPDATE's rule (R210). -/
def sesUpdateRule (l : BitVec 16) (s : State) : Except Exc State :=
  if s.phase ≠ .active then .error .contractViolation
  else if l.toNat > s.cfg.dbufSize then .error .contractViolation
  else if s.outq.length + (s.bufLen.toNat + l.toNat) / 16 > s.cfg.outqDepth then .error .outputOverflow
  else .ok (s.absorb (s.dbuf l.toNat))

/-- The end of a session: the padded remainder transformed, the end marker, an empty buffer, `PHASE = FINISHED`
(R211). -/
def State.endSession (s : State) : State :=
  let e := s.emit (padBlocks s.pad s.buffered)
  { e with outq := e.outq ++ [.endMark], buf := Block.zero, bufLen := 0, phase := .finished }

/-- SES.FINAL's rule (R211). -/
def sesFinalRule (l : BitVec 16) (s : State) : Except Exc State :=
  let total := s.bufLen.toNat + l.toNat
  if s.phase ≠ .active then .error .contractViolation
  else if l.toNat > s.cfg.dbufSize then .error .contractViolation
  else if s.pad = .none ∧ total % 16 ≠ 0 then .error .contractViolation
  else if s.outq.length + total / 16 + padCount s.pad (total % 16) + 1 > s.cfg.outqDepth then
    .error .outputOverflow
  else .ok (s.absorb (s.dbuf l.toNat)).endSession

/-- SES.INIT (R209). -/
def execSesInit (dir : Dir) (chain : ChainMode) (pad : BitVec 2) (s : State) :
    Host.Outcome State Fault Refusal :=
  finish (.sesInit dir chain pad) s (sesInitRule dir chain pad s)

/-- SES.UPDATE (R210). -/
def execSesUpdate (l : BitVec 16) (s : State) : Host.Outcome State Fault Refusal :=
  finish (.sesUpdate l) s (sesUpdateRule l s)

/-- SES.FINAL (R211). -/
def execSesFinal (l : BitVec 16) (s : State) : Host.Outcome State Fault Refusal :=
  finish (.sesFinal l) s (sesFinalRule l s)

end Sys2Proof.Machine
end

