-- ==== Sys2Proof/Machine/Dispatch.lean ====
section
/-! DEFINITION. One arm per command (30_encoding.md R104): the rule of the command at its commit point. -/

namespace Sys2Proof.Machine

open Sys2Proof

def exec (i : Instr) (s : State) : Host.Outcome State Fault Refusal :=
  match i with
  | .nop => Sys2Proof.Machine.execNop s
  | .aesKeyexp ks => Sys2Proof.Machine.execAesKeyexp ks s
  | .aesEncb l => Sys2Proof.Machine.execAesEncb l s
  | .aesDecb l => Sys2Proof.Machine.execAesDecb l s
  | .sesInit dir chain pad => Sys2Proof.Machine.execSesInit dir chain pad s
  | .sesUpdate l => Sys2Proof.Machine.execSesUpdate l s
  | .sesFinal l => Sys2Proof.Machine.execSesFinal l s
  | .gfMul l => Sys2Proof.Machine.execGfMul l s
  | .stSubbytes l => Sys2Proof.Machine.execStSubbytes l s
  | .stInvsubbytes l => Sys2Proof.Machine.execStInvsubbytes l s
  | .stShiftrows l => Sys2Proof.Machine.execStShiftrows l s
  | .stInvshiftrows l => Sys2Proof.Machine.execStInvshiftrows l s
  | .stMixcolumns l => Sys2Proof.Machine.execStMixcolumns l s
  | .stInvmixcolumns l => Sys2Proof.Machine.execStInvmixcolumns l s
  | .stAddroundkey round l => Sys2Proof.Machine.execStAddroundkey round l s
  | .bnLd reg l => Sys2Proof.Machine.execBnLd reg l s
  | .bnSt reg l => Sys2Proof.Machine.execBnSt reg l s
  | .rsaSp1 form => Sys2Proof.Machine.execRsaSp1 form s
  | .rsaVp1 => Sys2Proof.Machine.execRsaVp1 s
  | .emsaEnc alg l => Sys2Proof.Machine.execEmsaEnc alg l s
  | .pkcsSign alg form => Sys2Proof.Machine.execPkcsSign alg form s
  | .pkcsVerify alg l => Sys2Proof.Machine.execPkcsVerify alg l s
  | .derLenenc => Sys2Proof.Machine.execDerLenenc s
  | .derLendec l => Sys2Proof.Machine.execDerLendec l s
  | .oidEnc => Sys2Proof.Machine.execOidEnc s
  | .oidDec l => Sys2Proof.Machine.execOidDec l s
  | .algidEnc alg => Sys2Proof.Machine.execAlgidEnc alg s
  | .oidLdalg alg => Sys2Proof.Machine.execOidLdalg alg s

end Sys2Proof.Machine
end

