-- ==== Sys2Proof/Machine/Engine.lean ====
section
/-! DEFINITION. The two agents: the ENGINE's commit point (48_system.md R340) and the order in which agenda events
take effect (20_memory.md R82 to R85; log entry 3). Step.lean calls `moveOn`. -/

namespace Sys2Proof.Machine

open Sys2Proof

/-- The ENGINE at its commit point with the accepted word: decode it and run the command's rule, or raise
IllegalCommand (R340, 30_encoding.md R105, R106). -/
def commit (c : Word) (s : State) : Host.Outcome State Fault Refusal :=
  match decode s.cfg c with
  | .ok i => exec i s
  | .error _ => .next (s.raise .illegalCommand c)

/-- The ENGINE's moment: the commit point if a command is running, else nothing. -/
def engineMoment (s : State) : Host.Outcome State Fault Refusal :=
  match s.engine with
  | .idle => .next s
  | .running c => commit c s

/-- One move of the machine: the first event of the agenda. A HOST access is performed when `BUSY = 0`; while
`BUSY = 1` a read of `STATUS` is answered at once and every other access is held, that is, it stays first on the
agenda and the ENGINE commits (20_memory.md R85). The reset input acts at any time (70_reset_and_hazards.md R400).
With nothing on the agenda a running command still commits ("finite", R84), and an idle machine waits (R401). -/
def moveOn (s : State) : Host.Outcome State Fault Refusal :=
  match s.agenda with
  | [] => engineMoment s
  | .reset :: es => .next (s.withAgenda es).clearAll
  | .engine :: es => engineMoment (s.withAgenda es)
  | .host a :: es =>
    match s.engine with
    | .idle => .next ((s.withAgenda es).hostAccess a)
    | .running c =>
      if a.answeredWhileBusy s.cfg then .next ((s.withAgenda es).answerBusy a) else commit c s

/-- The machine with a command word accepted and its commit point next: what the very next step runs (log
entry 3). -/
def State.withAccepted (s : State) (c : Word) : State :=
  { s with engine := .running c, done := false, agenda := .engine :: s.agenda }

end Sys2Proof.Machine
end

