-- ==== Sys2Proof/Machine/Step.lean ====
section
/-! DEFINITION. The one step function, and the placing of an instruction for it. -/

namespace Sys2Proof.Machine

open Sys2Proof

/-- One step of the machine (Engine.lean's `moveOn`). -/
def step (s : State) : Host.Outcome State Fault Refusal := moveOn s

/-- The machine fetches nothing (10_state.md R24): an instruction reaches it as an accepted `CMD` write. This is
the state after that acceptance, its commit point the next step (log entry 3). A command is one 32-bit word
(30_encoding.md R100). -/
def State.withFetchWord (s : State) (nbits w : Nat) : State := s.withAccepted (BitVec.ofNat 32 (w % 2 ^ nbits))

end Sys2Proof.Machine
end

