-- ==== Sys2Proof/Machine/Script.lean ====
section
/-! DEFINITION. The HOST script lines and pseudo-commands (30_encoding.md R108, R109) as agenda events. A line that
repeats until a value is read (`wait`, `drain`) takes as an argument how many times. -/

namespace Sys2Proof.Machine

open Sys2Proof

/-- `wr32 LOC, value` at an offset. -/
def wr32 (cfg : Config) (off : Nat) (v : Word) : List Event := [.host (.write (cfg.base + off) .word v)]

/-- `wr8 LOC, value`. -/
def wr8 (cfg : Config) (off : Nat) (v : Byte) : List Event :=
  [.host (.write (cfg.base + off) .byte (v.setWidth 32))]

/-- `rd32 LOC`. -/
def rd32 (cfg : Config) (off : Nat) : List Event := [.host (.read (cfg.base + off) .word)]

/-- `rd8 LOC`. -/
def rd8 (cfg : Config) (off : Nat) : List Event := [.host (.read (cfg.base + off) .byte)]

/-- `cmd MNEMONIC field=value ..`. -/
def cmdLine (cfg : Config) (i : Instr) : List Event := wr32 cfg 0x04 (encode i)

/-- `ctrl CLRERR`, `ctrl POP`, `ctrl ZEROIZE`: bit = 1, 2, 4. -/
def ctrlLine (cfg : Config) (bit : Word) : List Event := wr32 cfg 0x14 bit

/-- `wait`: k reads of `STATUS` that find `BUSY = 1`, the ENGINE's commit point, and the read that finds
`BUSY = 0`. -/
def waitLine (cfg : Config) (k : Nat) : List Event :=
  (List.replicate k (rd32 cfg 0x08)).flatten ++ [.engine] ++ rd32 cfg 0x08

/-- `fill WINDOW, hexstring`. -/
def fill (cfg : Config) : Nat → Bytes → List Event
  | _, [] => []
  | off, b :: bs => wr8 cfg off b ++ fill cfg (off + 1) bs

/-- `ldbn REG, hexstring`. -/
def ldbn (cfg : Config) (reg : BitVec 6) (x : Bytes) (k : Nat) : List Event :=
  fill cfg dbufBase x ++ cmdLine cfg (.bnLd reg (BitVec.ofNat 16 x.length)) ++ waitLine cfg k

/-- `stbn REG, n`, without the reads of the n bytes. -/
def stbn (cfg : Config) (reg : BitVec 6) (n : BitVec 16) (k : Nat) : List Event :=
  cmdLine cfg (.bnSt reg n) ++ waitLine cfg k

/-- `setkey ks, hexstring`. -/
def setkey (cfg : Config) (ks : BitVec 2) (x : Bytes) (k : Nat) : List Event :=
  fill cfg keyBase x ++ cmdLine cfg (.aesKeyexp ks) ++ waitLine cfg k

/-- One turn of `drain`: read `OUTSTAT`, read `OUTHEAD`, `ctrl POP`. -/
def drainOne (cfg : Config) : List Event :=
  rd32 cfg 0x30 ++ rd32 cfg 0x40 ++ rd32 cfg 0x44 ++ rd32 cfg 0x48 ++ rd32 cfg 0x4C ++ ctrlLine cfg 2

/-- `oid v0.v1. .. .vn`: the components from entry i up, then `OIDN`. -/
def oidLine (cfg : Config) (o : List Word) : List Event :=
  (o.zipIdx.flatMap fun p => wr32 cfg (0x80 + 4 * p.2) p.1) ++ wr32 cfg 0x34 (BitVec.ofNat 32 o.length)

end Sys2Proof.Machine
end

