-- ==== Sys2Proof/Safety.lean ====
section
/-! DEFINITION. What counts as a safe run (a step neither faults nor is refused, and the invariant of 10_state.md
R51 holds) and the terms the statements use: frames, the checks of 60_exceptions.md R367, the tables as the spec
prints them. -/

namespace Sys2Proof.Machine

open Sys2Proof

/-- A step that goes on. -/
def Runs (s : State) : Prop := ∃ t, step s = .next t

/-- An offset of one of the byte windows `IV`, `KEY`, `HBUF`, `DBUF` (20_memory.md R71). -/
def inWindow (cfg : Config) (a : Nat) : Bool :=
  (ivBase ≤ a && a < ivBase + 16) || (keyBase ≤ a && a < keyBase + 32) ||
  (hbufBase ≤ a && a < hbufBase + 64) || (dbufBase ≤ a && a < dbufBase + cfg.dbufSize)

/-- The invariant: R51's items that the types do not already give, and the model's own about its memory list, the
parameters, the registers that do not exist, and a running command. -/
structure State.Inv (s : State) : Prop where
  /-- the parameters meet R11's constraints -/
  cfg_wf : s.cfg.wf = true
  /-- `PHASE != IDLE` implies `KVALID = 1` -/
  session_has_key : s.phase ≠ .idle → s.kvalid = true
  /-- `ERR = 0` if and only if `ERRCODE = 0` -/
  err_iff_code : s.err = false ↔ s.errcode = 0
  /-- `DONE = 1` implies `ERR = 0` -/
  done_no_err : s.done = true → s.err = false
  /-- the number of items in `OUTQ` is at most `OUTQ_DEPTH` -/
  outq_fits : s.outq.length ≤ s.cfg.outqDepth
  /-- `END`, if present in `OUTQ`, is its last item -/
  end_is_last : OutItem.endMark ∉ s.outq.dropLast
  /-- `END` is in `OUTQ` only if `PHASE = FINISHED` -/
  end_only_finished : OutItem.endMark ∈ s.outq → s.phase = .finished
  /-- every `BN[r]` is below 2^(8*KMAX) -/
  bn_fits : ∀ r, s.bnVal r < 2 ^ (8 * s.cfg.kmax)
  /-- `BNV[r] = 0` implies `BN[r] = 0` -/
  bn_unloaded_zero : ∀ r, s.bnValid r = false → s.bnVal r = 0
  /-- only registers that exist (R21) are ever loaded -/
  bn_loaded_exists : ∀ r, s.bnValid r = true → bnRegExists s.cfg r = true
  /-- `DLEN <= DBUF_SIZE` -/
  dlen_fits : s.dlen.toNat ≤ s.cfg.dbufSize
  /-- MODEL: the memory list is in canonical form -/
  mem_wf : Memory.wf s.mem = true
  /-- MODEL: only offsets of the byte windows are listed -/
  mem_in_windows : ∀ c ∈ s.mem, inWindow s.cfg c.1 = true
  /-- while a command runs, `DONE = 0` and `ERR = 0` (R83) -/
  busy_clear : s.engine ≠ .idle → s.done = false ∧ s.err = false

/-! ## Terms the statements use -/

/-- Byte i of `DBUF` (10_state.md R43). -/
def State.dbufByte (s : State) (i : Nat) : Byte := Memory.read s.mem (dbufBase + i)

/-- `W[i]` (R47). -/
def State.scheduleWord (s : State) (i : Nat) : Quad := s.w[i]?.getD Quad.zero

/-- The length of `algid_enc(alg)` (46_der.md R297's last column). -/
def algidLength (alg : BitVec 4) : Nat := [14, 14, 11, 15, 15, 15, 15, 15, 15].getD alg.toNat 0

/-- `ALG[alg].hLen` (10_state.md R46's last column). -/
def hLenOf (alg : BitVec 4) : Nat := [16, 16, 20, 28, 32, 48, 64, 28, 32].getD alg.toNat 0

/-- `tLen` for a digest of n bytes: "len(algid_enc(alg)) + len(H) for LITERAL and 4 more for DIGESTINFO"
(47_pkcs1.md R311). -/
def tLenOf (form : EmsaTForm) (alg : BitVec 4) (n : Nat) : Nat :=
  match form with
  | .literal => algidLength alg + n
  | .digestInfo => algidLength alg + n + 4

/-- `algid_enc(alg)` as R297 prints it. -/
def algidBytes (alg : BitVec 4) : Bytes :=
  match alg.toNat with
  | 0 => [0x30, 0x0c, 0x06, 0x08, 0x2a, 0x86, 0x48, 0x86, 0xf7, 0x0d, 0x02, 0x02, 0x05, 0x00]
  | 1 => [0x30, 0x0c, 0x06, 0x08, 0x2a, 0x86, 0x48, 0x86, 0xf7, 0x0d, 0x02, 0x05, 0x05, 0x00]
  | 2 => [0x30, 0x09, 0x06, 0x05, 0x2b, 0x0e, 0x03, 0x02, 0x1a, 0x05, 0x00]
  | 3 => [0x30, 0x0d, 0x06, 0x09, 0x60, 0x86, 0x48, 0x01, 0x65, 0x03, 0x04, 0x02, 0x04, 0x05, 0x00]
  | 4 => [0x30, 0x0d, 0x06, 0x09, 0x60, 0x86, 0x48, 0x01, 0x65, 0x03, 0x04, 0x02, 0x01, 0x05, 0x00]
  | 5 => [0x30, 0x0d, 0x06, 0x09, 0x60, 0x86, 0x48, 0x01, 0x65, 0x03, 0x04, 0x02, 0x02, 0x05, 0x00]
  | 6 => [0x30, 0x0d, 0x06, 0x09, 0x60, 0x86, 0x48, 0x01, 0x65, 0x03, 0x04, 0x02, 0x03, 0x05, 0x00]
  | 7 => [0x30, 0x0d, 0x06, 0x09, 0x60, 0x86, 0x48, 0x01, 0x65, 0x03, 0x04, 0x02, 0x05, 0x05, 0x00]
  | 8 => [0x30, 0x0d, 0x06, 0x09, 0x60, 0x86, 0x48, 0x01, 0x65, 0x03, 0x04, 0x02, 0x06, 0x05, 0x00]
  | _ => []

/-- The object identifier of a hash code as R46 prints it. -/
def algorithmOid (alg : BitVec 4) : List Nat :=
  match alg.toNat with
  | 0 => [1, 2, 840, 113549, 2, 2]
  | 1 => [1, 2, 840, 113549, 2, 5]
  | 2 => [1, 3, 14, 3, 2, 26]
  | 3 => [2, 16, 840, 1, 101, 3, 4, 2, 4]
  | 4 => [2, 16, 840, 1, 101, 3, 4, 2, 1]
  | 5 => [2, 16, 840, 1, 101, 3, 4, 2, 2]
  | 6 => [2, 16, 840, 1, 101, 3, 4, 2, 3]
  | 7 => [2, 16, 840, 1, 101, 3, 4, 2, 5]
  | 8 => [2, 16, 840, 1, 101, 3, 4, 2, 6]
  | _ => []

/-- T as R311 writes it, from the printed encodings. -/
def tBytes (form : EmsaTForm) (alg : BitVec 4) (h : Bytes) : Bytes :=
  match form with
  | .literal => algidBytes alg ++ h
  | .digestInfo =>
    [0x30#8, BitVec.ofNat 8 (algidLength alg + 2 + h.length)] ++ algidBytes alg ++
      [0x04#8, BitVec.ofNat 8 h.length] ++ h

/-- EM as 47_pkcs1.md R312 writes it: `0x00 || 0x01 || PS || 0x00 || T`. -/
def emBytes (form : EmsaTForm) (alg : BitVec 4) (h : Bytes) (emLen : Nat) : Bytes :=
  [0x00#8, 0x01#8] ++ List.replicate (emLen - tLenOf form alg h.length - 3) 0xFF#8 ++ [0x00#8] ++
    tBytes form alg h

/-- The match and mask columns of spec/opcode_table.json. -/
def commandTable : List (Word × Word) :=
  [ (0x00000000, 0xFFFFFFFF), (0x00000001, 0xFFFFFCFF), (0x00000002, 0x0000FFFF), (0x00000003, 0x0000FFFF),
    (0x00000004, 0xFFFFF0FF), (0x00000005, 0x0000FFFF), (0x00000006, 0x0000FFFF), (0x00000008, 0x0000FFFF),
    (0x00000009, 0x0000FFFF), (0x0000000A, 0x0000FFFF), (0x0000000B, 0x0000FFFF), (0x0000000C, 0x0000FFFF),
    (0x0000000D, 0x0000FFFF), (0x0000000E, 0x0000FFFF), (0x0000000F, 0x0000F0FF) ] ++
  [ (0x00000010, 0x0000C0FF), (0x00000011, 0x0000C0FF), (0x00000012, 0xFFFFFEFF), (0x00000013, 0xFFFFFFFF),
    (0x00000014, 0x0000F0FF), (0x00000015, 0xFFFFE0FF), (0x00000016, 0x0000F0FF), (0x00000018, 0xFFFFFFFF),
    (0x00000019, 0x0000FFFF), (0x0000001A, 0xFFFFFFFF), (0x0000001B, 0x0000FFFF), (0x0000001C, 0xFFFFF0FF),
    (0x0000001D, 0xFFFFF0FF) ]

/-- The illegal_if column of spec/opcode_table.json, on the word's own bits: SES.INIT with `pad` = 3, BN.LD with a
reserved `reg`, BN.ST with a `reg` that is none of 0, 1, 8, 9 (30_encoding.md R105). -/
def illegalIf (cfg : Config) (c : Word) : Bool :=
  let opc := c.toNat % 256
  let pad := c.toNat / 1024 % 4
  let reg := c.toNat / 256 % 64
  (opc == 0x04 && pad == 3) ||
  (opc == 0x10 && ((10 ≤ reg && reg ≤ 15) || reg > 15 + 3 * cfg.apMax)) ||
  (opc == 0x11 && !(reg == 0 || reg == 1 || reg == 8 || reg == 9))

/-- How many bytes of `DBUF` a command stores when it completes, from `DBUF[0]` up (each command's own rule). -/
def storedLength (i : Instr) (s : State) : Nat :=
  match i with
  | .gfMul _ => 1
  | .aesEncb _ => 16
  | .aesDecb _ => 16
  | .stSubbytes _ => 16
  | .stInvsubbytes _ => 16
  | .stShiftrows _ => 16
  | .stInvshiftrows _ => 16
  | .stMixcolumns _ => 16
  | .stInvmixcolumns _ => 16
  | .stAddroundkey _ _ => 16
  | .bnSt _ l => l.toNat
  | .emsaEnc _ l => l.toNat
  | .pkcsSign _ _ => bytelen (s.bnVal regN)
  | .derLenenc => (derlen s.arg0.toNat).length
  | .oidEnc => 2 + (oidValue (s.components.getD 0 0) (s.components.getD 1 0) (s.components.drop 2)).length
  | .algidEnc alg => algidLength alg
  | .nop => 0
  | .aesKeyexp _ => 0
  | .sesInit _ _ _ => 0
  | .sesUpdate _ => 0
  | .sesFinal _ => 0
  | .bnLd _ _ => 0
  | .rsaSp1 _ => 0
  | .rsaVp1 => 0
  | .pkcsVerify _ _ => 0
  | .derLendec _ => 0
  | .oidDec _ => 0
  | .oidLdalg _ => 0

/-- The result of RSASP1 in the MultiPrime form on the key registers (45_rsa.md R263). -/
def State.multiPrimeValue (s : State) (m : Nat) : Nat :=
  rsasp1MpValue (s.bnVal regP) (s.bnVal regQ) (s.bnVal regDP) (s.bnVal regDQ) (s.bnVal regQINV) s.triplets m

/-- The checks of a command in the order of 60_exceptions.md R367, each with the exception it raises when it
holds. -/
def checks (i : Instr) (s : State) : List (Bool × Exc) :=
  match i with
  | .nop => []
  | .aesKeyexp ks =>
    [(decide (ks = 3), .contractViolation), (decide (s.phase = .active), .contractViolation)]
  | .aesEncb l => [(decide (l ≠ 16), .contractViolation), (!s.kvalid, .invalidKey)]
  | .aesDecb l => [(decide (l ≠ 16), .contractViolation), (!s.kvalid, .invalidKey)]
  | .sesInit _ _ _ => [(!s.kvalid, .invalidKey)]
  | .sesUpdate l =>
    [(decide (s.phase ≠ .active), .contractViolation), (decide (l.toNat > s.cfg.dbufSize), .contractViolation),
     (decide (s.outq.length + (s.bufLen.toNat + l.toNat) / 16 > s.cfg.outqDepth), .outputOverflow)]
  | .sesFinal l =>
    [(decide (s.phase ≠ .active), .contractViolation), (decide (l.toNat > s.cfg.dbufSize), .contractViolation),
     (decide (s.pad = .none ∧ (s.bufLen.toNat + l.toNat) % 16 ≠ 0), .contractViolation),
     (decide (s.outq.length + (s.bufLen.toNat + l.toNat) / 16 +
        (if s.pad = .none ∨ (s.pad = .zero ∧ (s.bufLen.toNat + l.toNat) % 16 = 0) then 0 else 1) + 1
        > s.cfg.outqDepth), .outputOverflow)]
  | .gfMul l => [(decide (l ≠ 2), .contractViolation)]
  | .stSubbytes l => [(decide (l ≠ 16), .contractViolation)]
  | .stInvsubbytes l => [(decide (l ≠ 16), .contractViolation)]
  | .stShiftrows l => [(decide (l ≠ 16), .contractViolation)]
  | .stInvshiftrows l => [(decide (l ≠ 16), .contractViolation)]
  | .stMixcolumns l => [(decide (l ≠ 16), .contractViolation)]
  | .stInvmixcolumns l => [(decide (l ≠ 16), .contractViolation)]
  | .stAddroundkey round l =>
    [(decide (l ≠ 16), .contractViolation), (!s.kvalid, .invalidKey),
     (decide (round.toNat > s.aesMode.nr), .contractViolation)]
  | .bnLd _ l => [(decide (l.toNat > s.cfg.kmax), .contractViolation)]
  | .bnSt reg l =>
    [(decide (l.toNat > s.cfg.dbufSize), .contractViolation), (!s.bnValid reg, .invalidKey),
     (decide (s.bnVal reg ≥ 256 ^ l.toNat), .integerTooLarge)]
  | .rsaSp1 form =>
    [(s.keycheck form || !s.bnValid regM, .invalidKey), (decide (s.bnVal regM ≥ s.bnVal regN), .outOfRange),
     (decide (form = .multiPrime ∧ s.multiPrimeValue (s.bnVal regM) ≥ 2 ^ (8 * s.cfg.kmax)), .invalidKey)]
  | .rsaVp1 =>
    [(s.keycheckPub || !s.bnValid regS, .invalidKey), (decide (s.bnVal regS ≥ s.bnVal regN), .outOfRange)]
  | .emsaEnc alg l =>
    [(decide (alg.toNat ≥ 9), .unsupportedAlgorithm), (decide (l.toNat > s.cfg.dbufSize), .contractViolation),
     (decide (s.hlen.toNat > hLenOf alg), .messageTooLong),
     (decide (l.toNat < tLenOf s.cfg.emsaTForm alg s.hlen.toNat + 11), .encodedMessageTooShort)]
  | .pkcsSign alg form =>
    [(decide (alg.toNat ≥ 9), .unsupportedAlgorithm), (s.keycheck form, .invalidKey),
     (decide (s.hlen.toNat > hLenOf alg), .messageTooLong),
     (decide (bytelen (s.bnVal regN) < tLenOf s.cfg.emsaTForm alg s.hlen.toNat + 11), .encodedMessageTooShort),
     (decide (form = .multiPrime ∧
        s.multiPrimeValue (os2ip (emBytes s.cfg.emsaTForm alg (s.hbuf s.hlen.toNat) (bytelen (s.bnVal regN))))
          ≥ 256 ^ bytelen (s.bnVal regN)), .invalidKey)]
  | .pkcsVerify alg l =>
    [(decide (alg.toNat ≥ 9), .unsupportedAlgorithm), (decide (l.toNat > s.cfg.dbufSize), .contractViolation),
     (s.keycheckPub, .invalidKey)]
  | .derLenenc => [(decide (s.arg0.toNat ≥ 2 ^ 31), .contractViolation)]
  | .derLendec l =>
    [(decide (l.toNat > s.cfg.dbufSize), .contractViolation),
     ((derlenDec (s.dbuf l.toNat)).toOption.isNone, .decodeError)]
  | .oidEnc =>
    [(decide (s.oidn.toNat < 2 ∨ s.oidn.toNat > 16 ∨ s.components.getD 0 0 > 2 ∨
        (s.components.getD 0 0 < 2 ∧ s.components.getD 1 0 > 39) ∨
        40 * s.components.getD 0 0 + s.components.getD 1 0 > 255), .contractViolation)]
  | .oidDec l =>
    [(decide (l.toNat > s.cfg.dbufSize), .contractViolation),
     ((oidDec (s.dbuf l.toNat)).toOption.isNone, .decodeError)]
  | .algidEnc alg => [(decide (alg.toNat ≥ 9), .unsupportedAlgorithm)]
  | .oidLdalg alg => [(decide (alg.toNat ≥ 9), .unsupportedAlgorithm)]

/-- "The first check that fails" (60_exceptions.md R373). -/
def firstFailing : List (Bool × Exc) → Option Exc
  | [] => none
  | (b, x) :: rest => if b then some x else firstFailing rest

/-- Byte r of a four-byte word, the first at r = 0 (00_scope.md R16). -/
def quadByte (q : Quad) (r : Nat) : Byte := [q.b0, q.b1, q.b2, q.b3].getD r 0

/-- 10_state.md R52's table, row by row. -/
structure State.AtResetValues (s : State) : Prop where
  id : s.readReg .id = 0x4B4A5754#32
  progress : s.busy = false ∧ s.done = false ∧ s.err = false
  error : s.errcode = 0 ∧ s.errcmd = 0
  irqen : s.irqen = 0 ∧ s.irq = false
  registers : s.arg0 = 0 ∧ s.res0 = 0 ∧ s.res1 = 0 ∧ s.dlen = 0 ∧ s.hlen = 0 ∧ s.oidn = 0 ∧ s.nap = 0
  windows : ∀ a, Memory.read s.mem a = 0
  oidv : s.oidv = Vector.replicate 16 0
  outq : s.outq = [] ∧ s.outstatWord = 0 ∧ ∀ i, s.outheadByte i = 0
  bn : ∀ r, s.bnVal r = 0 ∧ s.bnValid r = false
  schedule : s.w = Vector.replicate 60 Quad.zero ∧ s.aesMode = .aes128 ∧ s.kvalid = false
  session : s.phase = .idle ∧ s.dir = .encrypt ∧ s.chainMode = .ecb ∧ s.pad = .none
  buffers : s.chain = Block.zero ∧ s.buf = Block.zero ∧ s.bufLen = 0

/-- The bytes of the `BLOCK` items of a queue, in order (43_modes.md R213). -/
def outputBytes : List OutItem → Bytes
  | [] => []
  | .block b :: q => blockBytes b ++ outputBytes q
  | .endMark :: q => outputBytes q

/-- What SES.FINAL appends to an input whose length is r modulo 16 (43_modes.md R207's table). -/
def paddingOf (pad : Pad) (r : Nat) : Bytes :=
  match pad with
  | .none => []
  | .zero => if r = 0 then [] else List.replicate (16 - r) 0
  | .pkcs7 => List.replicate (16 - r) (BitVec.ofNat 8 (16 - r))

/-- Two states with the same session, schedule and output queue; only `BUF[0 .. BUFLEN-1]` is meaningful
(10_state.md R48). -/
def sameSession (s t : State) : Prop :=
  s.outq = t.outq ∧ s.chain = t.chain ∧ s.bufLen = t.bufLen ∧ s.buffered = t.buffered ∧ s.phase = t.phase ∧
  s.dir = t.dir ∧ s.chainMode = t.chainMode ∧ s.pad = t.pad ∧ s.w = t.w ∧ s.aesMode = t.aesMode ∧
  s.kvalid = t.kvalid ∧ s.cfg = t.cfg

/-- The legal accesses, offset by offset: aligned; 4 bytes in the register offsets and `OIDV`, any width in the
byte windows (20_memory.md R71, R76). -/
def legalOffset (cfg : Config) (off : Nat) (n : Width) : Prop :=
  off % n.bytes = 0 ∧
  ((n = .word ∧ off < 0x3C) ∨ (0x40 ≤ off ∧ off < 0x80) ∨ (n = .word ∧ 0x80 ≤ off ∧ off < 0xC0) ∨
   (0xC0 ≤ off ∧ off < 0x100) ∨ (0x1000 ≤ off ∧ off < 0x1000 + cfg.dbufSize))

/-- Additional triplets consistent with a private exponent d over the primes so far, whose product is `bigR`: each
r is a new prime, its exponent is d mod (r - 1) and not 0, its coefficient inverts `bigR` modulo r (45_rsa.md
R263). -/
def consistentTriplets (d : Nat) : Nat → List (Nat × Nat × Nat) → Prop
  | _, [] => True
  | bigR, (r, dr, t) :: rest =>
    Nat.Prime r ∧ Nat.Coprime r bigR ∧ dr = d % (r - 1) ∧ dr ≠ 0 ∧ t * bigR % r = 1 ∧
      consistentTriplets d (bigR * r) rest

/-- The product of the additional primes with `bigR`. -/
def primesProduct : Nat → List (Nat × Nat × Nat) → Nat
  | bigR, [] => bigR
  | bigR, (r, _, _) :: rest => primesProduct (bigR * r) rest

/-- A consistent MultiPrime key for the private exponent d (45_rsa.md R263, R268): the relations R263 names, `N`
the product of the primes, and no exponent 0 (with `dP` = 0, which p = 2 forces, `m^dP mod p` is 1 for m = 0). -/
structure State.ConsistentMultiPrime (s : State) (d : Nat) : Prop where
  primes : Nat.Prime (s.bnVal regP) ∧ Nat.Prime (s.bnVal regQ) ∧ s.bnVal regP ≠ s.bnVal regQ
  dP : s.bnVal regDP = d % (s.bnVal regP - 1) ∧ s.bnVal regDP ≠ 0
  dQ : s.bnVal regDQ = d % (s.bnVal regQ - 1) ∧ s.bnVal regDQ ≠ 0
  qInv : s.bnVal regQINV * s.bnVal regQ % s.bnVal regP = 1
  more : consistentTriplets d (s.bnVal regP * s.bnVal regQ) s.triplets
  modulus : s.bnVal regN = primesProduct (s.bnVal regP * s.bnVal regQ) s.triplets

/-- Exponents e and d that undo each other modulo n: n has no square factor and e * d is 1 modulo r - 1 for every
prime r of n (45_rsa.md R268's "e * d = 1 modulo the Carmichael function"). -/
structure MatchingExponents (n e d : Nat) : Prop where
  squarefree : Squarefree n
  positive : 1 ≤ e * d
  inverse : ∀ r, Nat.Prime r → r ∣ n → e * d % (r - 1) = 1 % (r - 1)

end Sys2Proof.Machine
end

