-- ==== Sys2Proof/Certificates/Slice0/Obligations.lean ====
section
/-! DEFINITION. The statements for the provers, in the order of OBLIGATIONS.json. -/

open Sys2Proof Sys2Proof.Machine

/-! ## Encoding -/

/-- O1 (30_encoding.md R100 to R105): a word decodes to an instruction exactly when it is that instruction's encoding,
so no operand bit is dropped and no bit of an accepted word is ignored. -/
def Obligations.DecodeAndEncodeAgree : Prop :=
  ∀ (cfg : Config) (c : Word) (i : Instr),
    decode cfg c = .ok i ↔ (encode i = c ∧ i.wellFormed cfg = true)

/-- O2 (R105: "a word matches a row when `c & mask == match`", "the last three are the row's `illegal_if` entry"). -/
def Obligations.DecodingAcceptsExactlyTheTable : Prop :=
  ∀ (cfg : Config) (c : Word),
    (∃ i, decode cfg c = .ok i) ↔
      ((commandTable.any fun row => c &&& row.2 == row.1) = true ∧ illegalIf cfg c = false)

/-- O3 (30_encoding.md R107, the spec's own derivation from R100 to R104), on the reference instance. -/
def Obligations.ExampleWordsDecode : Prop :=
  decode Config.reference 0x00000000 = .ok .nop ∧
  decode Config.reference 0x00000001 = .ok (.aesKeyexp 0) ∧
  decode Config.reference 0x00000201 = .ok (.aesKeyexp 2) ∧
  decode Config.reference 0x00100002 = .ok (.aesEncb 16) ∧
  decode Config.reference 0x00100003 = .ok (.aesDecb 16) ∧
  decode Config.reference 0x00000A04 = .ok (.sesInit .encrypt .cbc 2) ∧
  decode Config.reference 0x00000304 = .ok (.sesInit .decrypt .cbc 0) ∧
  decode Config.reference 0x00280005 = .ok (.sesUpdate 40) ∧
  decode Config.reference 0x00000006 = .ok (.sesFinal 0) ∧
  decode Config.reference 0x00020008 = .ok (.gfMul 2) ∧
  decode Config.reference 0x00100A0F = .ok (.stAddroundkey 10 16) ∧
  decode Config.reference 0x00020010 = .ok (.bnLd 0 2) ∧
  decode Config.reference 0x00011010 = .ok (.bnLd 16 1) ∧
  decode Config.reference 0x00020911 = .ok (.bnSt 9 2) ∧
  decode Config.reference 0x00000112 = .ok (.rsaSp1 .multiPrime) ∧
  decode Config.reference 0x00000013 = .ok .rsaVp1 ∧
  decode Config.reference 0x00400414 = .ok (.emsaEnc 4 64) ∧
  decode Config.reference 0x00001415 = .ok (.pkcsSign 4 .multiPrime) ∧
  decode Config.reference 0x00400416 = .ok (.pkcsVerify 4 64) ∧
  decode Config.reference 0x00000018 = .ok .derLenenc ∧
  decode Config.reference 0x000B001B = .ok (.oidDec 11) ∧
  decode Config.reference 0x0000041C = .ok (.algidEnc 4) ∧
  (decode Config.reference 0x00010001).toOption = none ∧
  (decode Config.reference 0x00000007).toOption = none

/-! ## The step: acceptance, commit, stall, reset -/

/-- O4 (48_system.md R340; the agenda is log entry 3): whatever brings the ENGINE of a running command to its commit
point, the step is exec of the decoded command; and so is the step after a placed word. -/
def Obligations.StepRunsDecodedInstruction : Prop :=
  ∀ (s : State) (c : Word) (i : Instr), decode s.cfg c = .ok i →
    (∀ es, s.engine = .running c → s.agenda = .engine :: es → step s = exec i { s with agenda := es }) ∧
    (s.engine = .running c → s.agenda = [] → step s = exec i s) ∧
    (∀ a es, s.engine = .running c → s.agenda = .host a :: es → a.answeredWhileBusy s.cfg = false →
      step s = exec i s) ∧
    step (s.withFetchWord 32 c.toNat) = exec i { s with engine := .running c, done := false }

/-- O5 (30_encoding.md R105, R106, 60_exceptions.md R362; the agenda is log entry 3). -/
def Obligations.UndecodableWordRaisesIllegalCommand : Prop :=
  ∀ (s : State) (c : Word) (es : List Event), s.engine = .running c → s.agenda = .engine :: es →
    (∀ i, decode s.cfg c ≠ .ok i) →
      step s = .next { s with agenda := es, engine := .idle, err := true, errcode := 0x01, errcmd := c }

/-- O6 (10_state.md R27, 20_memory.md R83, 60_exceptions.md R374; the agenda and the response are log entries 3 and 6,
the ordinary response of a dropped write log entry 9). -/
def Obligations.CommandWriteAcceptedOrDropped : Prop :=
  ∀ (s : State) (c : Word) (es : List Event), s.engine = .idle →
    s.agenda = .host (.write (s.cfg.base + 0x04) .word c) :: es →
      (s.err = false →
        step s = .next { s with agenda := es, resp := some .written, done := false, engine := .running c }) ∧
      (s.err = true → step s = .next { s with agenda := es, resp := some .written })

/-- O7 (20_memory.md R85, R84): a held access waits for the command's commit and is performed against the
post-command state (the agenda is log entry 3). -/
def Obligations.HeldAccessSeesPostCommandState : Prop :=
  ∀ (s : State) (c : Word) (a : Access) (es : List Event), s.engine = .running c → s.agenda = .host a :: es →
    a.answeredWhileBusy s.cfg = false →
      ∃ t, commit c s = .next t ∧ step s = .next t ∧ t.engine = .idle ∧ t.agenda = .host a :: es ∧
        step t = .next (({ t with agenda := es } : State).hostAccess a)

/-- O8 (10_state.md R28, 20_memory.md R85; U1): bit 0 is 1 and the command goes on; bits [31:1] are the free
value, and the statement holds for every value of it (log entry 5); the agenda and the response are log entries 3 and
6. -/
def Obligations.StatusReadWhileBusyAnsweredAtOnce : Prop :=
  ∀ (s : State) (c : Word) (es : List Event), s.engine = .running c →
    s.agenda = .host (.read (s.cfg.base + 0x08) .word) :: es →
      ∃ v : Word, v.getLsbD 0 = true ∧
        step s = .next { s with agenda := es, resp := some (.data v), freeCtr := s.freeCtr + 1 }

/-- O9 (10_state.md R52): the reset state, the state after the reset input at any time, and the state after
ZEROIZE (the agenda is log entry 3). -/
def Obligations.ResetLeavesEveryPieceAtItsValue : Prop :=
  State.reset.AtResetValues ∧
  (∀ (s : State) (es : List Event), s.agenda = .reset :: es →
    ∃ t, step s = .next t ∧ t.AtResetValues ∧ t.agenda = es ∧ t.cfg = s.cfg) ∧
  (∀ (s : State) (v : Word) (es : List Event), s.engine = .idle →
    s.agenda = .host (.write (s.cfg.base + 0x14) .word v) :: es → v.getLsbD 2 = true →
      ∃ t, step s = .next t ∧ t.AtResetValues ∧ t.agenda = es ∧ t.cfg = s.cfg)

/-- O10 (48_system.md R344, R345): CLRERR and POP, CLRERR first, whatever `ERR` is; nothing else changes
(the agenda and the response are log entries 3 and 6). -/
def Obligations.ControlActionsClearErrorAndPop : Prop :=
  ∀ (s : State) (v : Word) (es : List Event), s.engine = .idle →
    s.agenda = .host (.write (s.cfg.base + 0x14) .word v) :: es → v.getLsbD 2 = false →
      step s = .next { s with
        agenda := es
        resp := some .written
        err := if v.getLsbD 0 then false else s.err
        errcode := if v.getLsbD 0 then 0 else s.errcode
        errcmd := if v.getLsbD 0 then 0 else s.errcmd
        outq := if v.getLsbD 1 then s.outq.drop 1 else s.outq }

/-! ## Exceptions -/

/-- O11 (60_exceptions.md R364 with R361's codes): a command that sets `ERR` has changed nothing but the error record,
and the word recorded is the one accepted (the agenda is log entry 3). -/
def Obligations.ExceptionsArePrecise : Prop :=
  [Exc.illegalCommand, .contractViolation, .outOfRange, .messageTooLong, .encodedMessageTooShort,
    .unsupportedAlgorithm, .invalidKey, .integerTooLarge, .decodeError, .outputOverflow].map Exc.code =
    [0x01, 0x02, 0x03, 0x04, 0x05, 0x06, 0x07, 0x08, 0x09, 0x0A] ∧
  ∀ (s t : State) (c : Word) (es : List Event), s.engine = .running c → s.agenda = .engine :: es →
    s.err = false → step s = .next t → t.err = true →
      ∃ x : Exc, t = { s with agenda := es, engine := .idle, err := true, errcode := x.code, errcmd := c }

/-- O12 (60_exceptions.md R367, whose table is the spec's own derivation from the command rules, and R373): the first
check that fails decides, and without one the command completes. -/
def Obligations.ChecksInTabulatedOrder : Prop :=
  ∀ (i : Instr) (s : State), i.wellFormed s.cfg = true →
    match firstFailing (checks i s) with
    | some x =>
      exec i s = .next { s with engine := .idle, err := true, errcode := x.code, errcmd := encode i }
    | none => ∃ t, exec i s = .next t ∧ t.engine = .idle ∧ t.done = true ∧ t.err = s.err ∧
        t.errcode = s.errcode ∧ t.errcmd = s.errcmd

/-- O13 (45_rsa.md R264): each key check, and the registers of the form not selected are not looked at. -/
def Obligations.KeyChecksReadTheirRegisters : Prop :=
  ∀ s : State,
    (s.keycheckPub = true ↔ s.bnValid 0 = false ∨ s.bnValid 1 = false ∨ s.bnVal 0 = 0) ∧
    (s.keycheckPair = true ↔ s.bnValid 0 = false ∨ s.bnValid 2 = false ∨ s.bnVal 0 = 0) ∧
    (s.keycheckMp = true ↔
      s.nap.toNat > s.cfg.apMax ∨
      (∃ r : BitVec 6, (r = 0 ∨ (3 ≤ r ∧ r ≤ 7)) ∧ s.bnValid r = false) ∨
      (∃ j, j < s.nap.toNat ∧ (s.bnValid (BitVec.ofNat 6 (16 + 3 * j)) = false ∨
        s.bnValid (BitVec.ofNat 6 (17 + 3 * j)) = false ∨ s.bnValid (BitVec.ofNat 6 (18 + 3 * j)) = false)) ∨
      s.bnVal 0 = 0 ∨ s.bnVal 3 = 0 ∨ s.bnVal 4 = 0 ∨
      (∃ j, j < s.nap.toNat ∧ s.bnVal (BitVec.ofNat 6 (16 + 3 * j)) = 0))

/-! ## Frames -/

/-- O14 (40_gf_state.md R149, R150, R157, 42_cipher.md R188, R189): the commands that store a fixed number of bytes at
`DBUF[0]`. -/
def Obligations.FrameOfFixedDbufWriters : Prop :=
  ∀ (i : Instr) (l : BitVec 16) (round : BitVec 4) (s t : State),
    i ∈ [Instr.gfMul l, .stSubbytes l, .stInvsubbytes l, .stShiftrows l, .stInvshiftrows l, .stMixcolumns l,
      .stInvmixcolumns l, .stAddroundkey round l, .aesEncb l, .aesDecb l] →
    exec i s = .next t →
      (∃ x : Exc, t = { s with engine := .idle, err := true, errcode := x.code, errcmd := encode i }) ∨
      (t = { s with engine := .idle, done := true, mem := t.mem, dlen := BitVec.ofNat 16 (storedLength i s) } ∧
        ∀ a, ¬(dbufBase ≤ a ∧ a < dbufBase + storedLength i s) → Memory.read t.mem a = Memory.read s.mem a)

/-- O15 (44_bignum.md R243, 46_der.md R283, R289, R295, 47_pkcs1.md R315, R318): the commands whose stored length
depends on `L`, on a register or on the operand. -/
def Obligations.FrameOfVariableDbufWriters : Prop :=
  ∀ (i : Instr) (reg : BitVec 6) (l : BitVec 16) (alg : BitVec 4) (form : KeyForm) (s t : State),
    i ∈ [Instr.bnSt reg l, .emsaEnc alg l, .pkcsSign alg form, .derLenenc, .oidEnc, .algidEnc alg] →
    exec i s = .next t →
      (∃ x : Exc, t = { s with engine := .idle, err := true, errcode := x.code, errcmd := encode i }) ∨
      (t = { s with engine := .idle, done := true, mem := t.mem, dlen := BitVec.ofNat 16 (storedLength i s) } ∧
        ∀ a, ¬(dbufBase ≤ a ∧ a < dbufBase + storedLength i s) → Memory.read t.mem a = Memory.read s.mem a)

/-- O16 (41_key_expansion.md R175, 43_modes.md R209, R210, R211): no memory byte, no bignum register, no result
register; AES.KEYEXP leaves the session, the session commands leave the schedule. -/
def Obligations.FrameOfKeyAndSessionCommands : Prop :=
  ∀ (i : Instr) (ks : BitVec 2) (dir : Dir) (chain : ChainMode) (pad : BitVec 2) (l : BitVec 16) (s t : State),
    exec i s = .next t →
      (i = .aesKeyexp ks →
        (∃ x : Exc, t = { s with engine := .idle, err := true, errcode := x.code, errcmd := encode i }) ∨
        t = { s with engine := .idle, done := true, w := t.w, aesMode := t.aesMode, kvalid := t.kvalid }) ∧
      (i = .sesInit dir chain pad →
        (∃ x : Exc, t = { s with engine := .idle, err := true, errcode := x.code, errcmd := encode i }) ∨
        t = { s with engine := .idle, done := true, phase := t.phase, dir := t.dir, chainMode := t.chainMode,
                     pad := t.pad, chain := t.chain, buf := t.buf, bufLen := t.bufLen, outq := t.outq }) ∧
      (i = .sesUpdate l →
        (∃ x : Exc, t = { s with engine := .idle, err := true, errcode := x.code, errcmd := encode i }) ∨
        t = { s with engine := .idle, done := true, outq := t.outq, chain := t.chain, buf := t.buf,
                     bufLen := t.bufLen }) ∧
      (i = .sesFinal l →
        (∃ x : Exc, t = { s with engine := .idle, err := true, errcode := x.code, errcmd := encode i }) ∨
        t = { s with engine := .idle, done := true, outq := t.outq, chain := t.chain, buf := t.buf,
                     bufLen := t.bufLen, phase := t.phase })

/-- O17 (44_bignum.md R242, 45_rsa.md R262, R266): one bignum register and its valid bit, nothing else. -/
def Obligations.FrameOfBignumCommands : Prop :=
  ∀ (i : Instr) (dest reg : BitVec 6) (l : BitVec 16) (form : KeyForm) (s t : State),
    (i = .bnLd reg l ∧ dest = reg) ∨ (i = .rsaSp1 form ∧ dest = regS) ∨ (i = .rsaVp1 ∧ dest = regM) →
    exec i s = .next t →
      (∃ x : Exc, t = { s with engine := .idle, err := true, errcode := x.code, errcmd := encode i }) ∨
      (t = { s with engine := .idle, done := true, bn := t.bn } ∧
        ∀ r, r ≠ dest → t.bnVal r = s.bnVal r ∧ t.bnValid r = s.bnValid r)

/-- O18 (46_der.md R285, R292, R296, 47_pkcs1.md R320, 48_system.md R341): `RES0` and `RES1`, for OID.DEC and OID.LDALG
also `OIDN` and the entries of `OIDV` below the new `OIDN`; NOP nothing. -/
def Obligations.FrameOfResultCommands : Prop :=
  ∀ (i : Instr) (l : BitVec 16) (alg : BitVec 4) (s t : State), exec i s = .next t →
    (i ∈ [Instr.derLendec l, .pkcsVerify alg l] →
      (∃ x : Exc, t = { s with engine := .idle, err := true, errcode := x.code, errcmd := encode i }) ∨
      t = { s with engine := .idle, done := true, res0 := t.res0, res1 := t.res1 }) ∧
    (i ∈ [Instr.oidDec l, .oidLdalg alg] →
      (∃ x : Exc, t = { s with engine := .idle, err := true, errcode := x.code, errcmd := encode i }) ∨
      (t = { s with engine := .idle, done := true, res0 := t.res0, res1 := t.res1, oidn := t.oidn,
                    oidv := t.oidv } ∧
        ∀ (k : Nat) (h : k < 16), t.oidn.toNat ≤ k → t.oidv[k] = s.oidv[k])) ∧
    (i = .nop → t = { s with engine := .idle, done := true })

/-- O19 (10_state.md R22, R33 to R36, R40, R41, R44): which state no command, or only a named command, writes. -/
def Obligations.OnlyTheNamedCommandsWrite : Prop :=
  ∀ (i : Instr) (s t : State), exec i s = .next t →
    (t.cfg = s.cfg ∧ t.irqen = s.irqen ∧ t.arg0 = s.arg0 ∧ t.hlen = s.hlen ∧ t.nap = s.nap) ∧
    (∀ a, a < dbufBase → Memory.read t.mem a = Memory.read s.mem a) ∧
    (∀ r, s.bnValid r = true → t.bnValid r = true) ∧
    (s.kvalid = true → t.kvalid = true) ∧
    (t.res0 ≠ s.res0 ∨ t.res1 ≠ s.res1 → (∃ l, i = .derLendec l) ∨ (∃ l, i = .oidDec l) ∨
      (∃ alg, i = .oidLdalg alg) ∨ (∃ alg l, i = .pkcsVerify alg l)) ∧
    (t.w ≠ s.w ∨ t.aesMode ≠ s.aesMode → ∃ ks, i = .aesKeyexp ks)

/-! ## System and AES -/

/-- O20 (48_system.md R341, 30_encoding.md R105; that a `CMD` write dropped at `ERR = 1` takes one step of the agenda
and gets an ordinary response is the model's: log entries 3, 6 and 9). -/
def Obligations.NopOnlySetsDone : Prop :=
  (∀ s : State, exec .nop s = .next { s with engine := .idle, done := true }) ∧
  (∀ (cfg : Config) (c : Word), c.toNat % 256 = 0 → (c = 0 ↔ decode cfg c = .ok .nop) ∧
    (c ≠ 0 → ∃ r, decode cfg c = .error r)) ∧
  (∀ (s : State) (es : List Event), s.engine = .idle → s.err = true →
    s.agenda = .host (.write (s.cfg.base + 0x04) .word 0) :: es →
      step s = .next { s with agenda := es, resp := some .written }) ∧
  ({ State.reset with done := true }).statusWord = 0x00000002#32

/-- O21 (41_key_expansion.md R174, R175, R176, with R173's table of `RCON`). -/
def Obligations.KeyScheduleFollowsRecurrence : Prop :=
  ((List.range 10).map fun j => rcon (j + 1)) = [0x01, 0x02, 0x04, 0x08, 0x10, 0x20, 0x40, 0x80, 0x1b, 0x36] ∧
  ∀ (ks : BitVec 2) (s : State),
    (ks = 3 ∨ s.phase = .active → exec (.aesKeyexp ks) s =
      .next { s with engine := .idle, err := true, errcode := 0x02, errcmd := encode (.aesKeyexp ks) }) ∧
    (ks ≠ 3 → s.phase ≠ .active →
      ∃ t, exec (.aesKeyexp ks) s = .next t ∧
        t = { s with engine := .idle, done := true, w := t.w, aesMode := t.aesMode, kvalid := true } ∧
        t.aesMode.code = ks ∧
        (∀ i, i < 4 + 2 * ks.toNat → ∀ r, r < 4 →
          quadByte (t.scheduleWord i) r = Memory.read s.mem (0x60 + 4 * i + r)) ∧
        (∀ i, 4 + 2 * ks.toNat ≤ i → i < 4 * (11 + 2 * ks.toNat) →
          t.scheduleWord i = xorQuad (t.scheduleWord (i - (4 + 2 * ks.toNat)))
            (if i % (4 + 2 * ks.toNat) = 0 then
              xorQuad (subWord (rotWord (t.scheduleWord (i - 1)))) ⟨rcon (i / (4 + 2 * ks.toNat)), 0, 0, 0⟩
            else if 4 + 2 * ks.toNat > 6 ∧ i % (4 + 2 * ks.toNat) = 4 then subWord (t.scheduleWord (i - 1))
            else t.scheduleWord (i - 1))) ∧
        (∀ i, 4 * (11 + 2 * ks.toNat) ≤ i → t.scheduleWord i = Quad.zero))

/-- O22 (42_cipher.md R185, R186, R188, R189): round key 0 first, Nr - 1 full rounds, the last one without MixColumns;
the reverse for the inverse (the order of its middle rounds is the spec's own derivation); and the two commands on
`DBUF[0..15]`. -/
def Obligations.BlockCommandsRunTheRounds : Prop :=
  (∀ (b : Block) (w : Vector Quad 60) (nr : Nat),
      cipher b w nr =
        addRoundKey (shiftRows (subBytes
          (((List.range (nr - 1)).map (· + 1)).foldl
            (fun x r => addRoundKey (mixColumns (shiftRows (subBytes x))) w r) (addRoundKey b w 0)))) w nr ∧
      invCipher b w nr =
        addRoundKey (invSubBytes (invShiftRows
          (((List.range (nr - 1)).map (· + 1)).reverse.foldl
            (fun x r => invMixColumns (addRoundKey (invSubBytes (invShiftRows x)) w r)) (addRoundKey b w nr)))) w 0) ∧
  (∀ s : State, Memory.wf s.mem = true → s.kvalid = true →
    (∃ t, exec (.aesEncb 16) s = .next t ∧ t.done = true ∧ t.err = s.err ∧ t.dlen = 16 ∧
      t.dbufBlock = cipher s.dbufBlock s.w (10 + 2 * s.aesMode.code.toNat)) ∧
    (∃ t, exec (.aesDecb 16) s = .next t ∧ t.done = true ∧ t.err = s.err ∧ t.dlen = 16 ∧
      t.dbufBlock = invCipher s.dbufBlock s.w (10 + 2 * s.aesMode.code.toNat)))

/-- O23 (42_cipher.md R187, derived there from 40_gf_state.md R146): as functions, for every schedule, and as
commands. -/
def Obligations.InvCipherUndoesCipher : Prop :=
  (∀ (b : Block) (w : Vector Quad 60) (nr : Nat), nr ∈ [10, 12, 14] →
    invCipher (cipher b w nr) w nr = b ∧ cipher (invCipher b w nr) w nr = b) ∧
  (∀ s : State, Memory.wf s.mem = true → s.kvalid = true →
    ∃ t u, exec (.aesEncb 16) s = .next t ∧ exec (.aesDecb 16) t = .next u ∧ u.done = true ∧
      u.dbuf 16 = s.dbuf 16 ∧ u.mem = s.mem)

/-- O24 (40_gf_state.md R138, R139, R140, R141, R144 through the commands R151 to R154 and R157). -/
def Obligations.ByteLaneCommands : Prop :=
  ∀ s : State, Memory.wf s.mem = true →
    (∃ t, exec (.stSubbytes 16) s = .next t ∧ t.done = true ∧ t.err = s.err ∧ t.dlen = 16 ∧
      ∀ i, i < 16 → t.dbufByte i = sbox (s.dbufByte i)) ∧
    (∃ t, exec (.stInvsubbytes 16) s = .next t ∧ t.done = true ∧ t.err = s.err ∧ t.dlen = 16 ∧
      ∀ i, i < 16 → t.dbufByte i = invSbox (s.dbufByte i)) ∧
    (∃ t, exec (.stShiftrows 16) s = .next t ∧ t.done = true ∧ t.err = s.err ∧ t.dlen = 16 ∧
      ∀ r c, r < 4 → c < 4 → t.dbufByte (r + 4 * c) = s.dbufByte (r + 4 * ((c + r) % 4))) ∧
    (∃ t, exec (.stInvshiftrows 16) s = .next t ∧ t.done = true ∧ t.err = s.err ∧ t.dlen = 16 ∧
      ∀ r c, r < 4 → c < 4 → t.dbufByte (r + 4 * ((c + r) % 4)) = s.dbufByte (r + 4 * c)) ∧
    (∀ round : BitVec 4, s.kvalid = true → round.toNat ≤ 10 + 2 * s.aesMode.code.toNat →
      ∃ t, exec (.stAddroundkey round 16) s = .next t ∧ t.done = true ∧ t.err = s.err ∧ t.dlen = 16 ∧
        ∀ r c, r < 4 → c < 4 → t.dbufByte (r + 4 * c) =
          s.dbufByte (r + 4 * c) ^^^ quadByte (s.scheduleWord (4 * round.toNat + c)) r)

/-- O25 (40_gf_state.md R142, R143 through the commands R155 and R156; that each row is the one before it rotated is
the spec's "from general knowledge"). -/
def Obligations.MixColumnCommands : Prop :=
  (∀ s : State, Memory.wf s.mem = true →
    (∃ t, exec (.stMixcolumns 16) s = .next t ∧ t.done = true ∧ t.err = s.err ∧ t.dlen = 16 ∧
      ∀ c r, c < 4 → r < 4 → t.dbufByte (4 * c + r) =
        ((List.range 4).map fun k =>
          gfmul ([0x02#8, 0x03, 0x01, 0x01].getD ((k + 4 - r) % 4) 0) (s.dbufByte (4 * c + k))).foldl (· ^^^ ·) 0) ∧
    (∃ t, exec (.stInvmixcolumns 16) s = .next t ∧ t.done = true ∧ t.err = s.err ∧ t.dlen = 16 ∧
      ∀ c r, c < 4 → r < 4 → t.dbufByte (4 * c + r) =
        ((List.range 4).map fun k =>
          gfmul ([0x0e#8, 0x0b, 0x0d, 0x09].getD ((k + 4 - r) % 4) 0) (s.dbufByte (4 * c + k))).foldl (· ^^^ ·) 0)) ∧
  mixColumn ⟨0xdb, 0x13, 0x53, 0x45⟩ = ⟨0x8e, 0x4d, 0xa1, 0xbc⟩ ∧
  invMixColumn ⟨0x8e, 0x4d, 0xa1, 0xbc⟩ = ⟨0xdb, 0x13, 0x53, 0x45⟩

/-- O26 (40_gf_state.md R150). -/
def Obligations.GfMulCommand : Prop :=
  ∀ s : State, Memory.wf s.mem = true →
    (∃ t, exec (.gfMul 2) s = .next t ∧ t.done = true ∧ t.err = s.err ∧ t.dlen = 1 ∧
      t.dbufByte 0 = gfmul (s.dbufByte 0) (s.dbufByte 1) ∧ t.dbufByte 1 = s.dbufByte 1) ∧
    (∀ l : BitVec 16, l ≠ 2 → exec (.gfMul l) s =
      .next { s with engine := .idle, err := true, errcode := 0x02, errcmd := encode (.gfMul l) })

/-- O27 (40_gf_state.md R132; the corner cases and the worked example are R131's own derivations). -/
def Obligations.FieldProductLaws : Prop :=
  (∀ a b : Byte, gfmul a b = gfmul b a) ∧
  (∀ a b c : Byte, gfmul a (b ^^^ c) = gfmul a b ^^^ gfmul a c) ∧
  (∀ a : Byte, gfmul 0 a = 0 ∧ gfmul a 0 = 0 ∧ gfmul 1 a = a) ∧
  (∀ a : Byte, gfmul 0x02 a = (a <<< 1) ^^^ (if a.getLsbD 7 then 0x1B#8 else 0)) ∧
  gfmul 0x02 0x80 = 0x1B ∧ gfmul 0xFF 0xFF = 0x13 ∧ gfmul 0x57 0x83 = 0xC1

/-- O28 (40_gf_state.md R136, R137, printed "from general knowledge"): the tables agree with the formula R136 gives and
are inverse. -/
def Obligations.SubstitutionTablesFollowTheField : Prop :=
  sbox 0x00 = 0x63 ∧ sbox 0x53 = 0xed ∧ sbox 0xFF = 0x16 ∧ invSbox 0x63 = 0x00 ∧ invSbox 0x00 = 0x52 ∧
  (∀ x : Byte, invSbox (sbox x) = x ∧ sbox x ≠ x) ∧
  (∀ x : Byte, x ≠ 0 → ∃ y : Byte, gfmul x y = 1 ∧
    sbox x = y ^^^ y.rotateLeft 1 ^^^ y.rotateLeft 2 ^^^ y.rotateLeft 3 ^^^ y.rotateLeft 4 ^^^ 0x63)

/-- O29 (40_gf_state.md R146, the spec's own derivation; the last clause of R144). -/
def Obligations.TransformsAreInverse : Prop :=
  ∀ s : Block,
    invSubBytes (subBytes s) = s ∧ subBytes (invSubBytes s) = s ∧
    invShiftRows (shiftRows s) = s ∧ shiftRows (invShiftRows s) = s ∧
    invMixColumns (mixColumns s) = s ∧ mixColumns (invMixColumns s) = s ∧
    subBytes (shiftRows s) = shiftRows (subBytes s) ∧
    invSubBytes (invShiftRows s) = invShiftRows (invSubBytes s) ∧
    ∀ (w : Vector Quad 60) (round : Nat), addRoundKey (addRoundKey s w round) w round = s

/-! ## Sessions -/

/-- O30 (43_modes.md R209). -/
def Obligations.SesInitStartsSession : Prop :=
  ∀ (dir : Dir) (chain : ChainMode) (pad : BitVec 2) (s : State), pad ≠ 3 →
    (s.kvalid = true → ∃ t, exec (.sesInit dir chain pad) s = .next t ∧
      t = { s with engine := .idle, done := true, dir := dir, chainMode := chain, pad := t.pad, chain := t.chain,
                   buf := Block.zero, bufLen := 0, outq := [], phase := .active } ∧
      t.pad.code = pad ∧ ∀ i, i < 16 → blockByte t.chain i = Memory.read s.mem (0x50 + i)) ∧
    (s.kvalid = false → exec (.sesInit dir chain pad) s =
      .next { s with engine := .idle, err := true, errcode := 0x07, errcmd := encode (.sesInit dir chain pad) })

/-- O31 (43_modes.md R206, R210): every complete sixteen-byte chunk of the buffered bytes and the input is
transformed and queued, the rest is buffered. -/
def Obligations.SesUpdateAbsorbs : Prop :=
  ∀ (l : BitVec 16) (s : State), s.phase = .active → l.toNat ≤ s.cfg.dbufSize →
    s.outq.length + (s.bufLen.toNat + l.toNat) / 16 ≤ s.cfg.outqDepth →
      ∃ t, exec (.sesUpdate l) s = .next t ∧ t.done = true ∧ t.err = s.err ∧ t.phase = .active ∧
        (let d := s.buffered ++ s.dbuf l.toNat
         let r := xformAll s.dir s.chainMode s.w (10 + 2 * s.aesMode.code.toNat) s.chain (chunks (d.length / 16) d)
         t.outq = s.outq ++ r.1.map .block ∧ t.chain = r.2 ∧ t.buffered = d.drop (16 * (d.length / 16)) ∧
         t.bufLen.toNat = (s.bufLen.toNat + l.toNat) % 16)

/-- O32 (43_modes.md R207, whose ZERO and PKCS7 are "from general knowledge", R208, R211): what is left is padded the
same way in both directions, transformed, queued, and the end marker follows. -/
def Obligations.SesFinalEndsSession : Prop :=
  ∀ (l : BitVec 16) (s : State), s.phase = .active → l.toNat ≤ s.cfg.dbufSize →
    ¬(s.pad = .none ∧ (s.bufLen.toNat + l.toNat) % 16 ≠ 0) →
    s.outq.length + (s.bufLen.toNat + l.toNat) / 16 +
        (if paddingOf s.pad ((s.bufLen.toNat + l.toNat) % 16) = [] then 0 else 1) + 1 ≤ s.cfg.outqDepth →
      ∃ t, exec (.sesFinal l) s = .next t ∧ t.done = true ∧ t.err = s.err ∧ t.phase = .finished ∧
        t.buf = Block.zero ∧ t.bufLen = 0 ∧
        (let d := s.buffered ++ s.dbuf l.toNat ++ paddingOf s.pad ((s.bufLen.toNat + l.toNat) % 16)
         let r := xformAll s.dir s.chainMode s.w (10 + 2 * s.aesMode.code.toNat) s.chain (chunks (d.length / 16) d)
         t.outq = s.outq ++ r.1.map .block ++ [.endMark] ∧ t.chain = r.2)

/-- O33 (43_modes.md R202, R203, R204, R205). -/
def Obligations.ChainingFollowsTheMode : Prop :=
  ∀ (w : Vector Quad 60) (nr : Nat) (chain : Block) (bs : List Block),
    xformAll .encrypt .ecb w nr chain bs = (bs.map fun b => cipher b w nr, chain) ∧
    xformAll .decrypt .ecb w nr chain bs = (bs.map fun b => invCipher b w nr, chain) ∧
    (let e := xformAll .encrypt .cbc w nr chain bs
     e.1.length = bs.length ∧ e.2 = e.1.getLastD chain ∧
     ∀ j, j < bs.length → e.1.getD j Block.zero =
       cipher (xorBlock (bs.getD j Block.zero) ((chain :: e.1).getD j Block.zero)) w nr) ∧
    (let d := xformAll .decrypt .cbc w nr chain bs
     d.1.length = bs.length ∧ d.2 = bs.getLastD chain ∧
     ∀ j, j < bs.length → d.1.getD j Block.zero =
       xorBlock (invCipher (bs.getD j Block.zero) w nr) ((chain :: bs).getD j Block.zero))

/-- O34 (43_modes.md R216, the spec's own derivation): an input given to SES.UPDATE in two pieces, or its last piece
to SES.FINAL, has the effect of the whole given at once; `u` is `t` after the HOST has put the second piece into
`DBUF`. -/
def Obligations.SplittingInputDoesNotMatter : Prop :=
  ∀ (l l1 l2 : BitVec 16) (s s' t u : State), l.toNat = l1.toNat + l2.toNat → l.toNat ≤ s.cfg.dbufSize →
    sameSession s s' → exec (.sesUpdate l1) s = .next t → t.err = false → sameSession t u →
    s'.dbuf l.toNat = s.dbuf l1.toNat ++ u.dbuf l2.toNat → s'.err = false → u.err = false →
      (∀ v, exec (.sesUpdate l2) u = .next v → v.err = false →
        ∃ v', exec (.sesUpdate l) s' = .next v' ∧ v'.err = false ∧ sameSession v v') ∧
      (∀ v, exec (.sesFinal l2) u = .next v → v.err = false →
        ∃ v', exec (.sesFinal l) s' = .next v' ∧ v'.err = false ∧ sameSession v v')

/-- O35 (43_modes.md R217, the spec's own derivation): an input of one SES.FINAL, encrypted, then its output decrypted
without padding under the same schedule, chaining mode and chaining value, comes back with its padding. -/
def Obligations.DecryptSessionInvertsEncryptSession : Prop :=
  ∀ (l l' : BitVec 16) (s t u : State), s.phase = .active → s.dir = .encrypt → s.bufLen = 0 → s.outq = [] →
    s.err = false → exec (.sesFinal l) s = .next t → t.err = false →
    u.phase = .active → u.dir = .decrypt → u.pad = .none → u.bufLen = 0 → u.outq = [] → u.err = false →
    u.w = s.w → u.aesMode = s.aesMode → u.chainMode = s.chainMode → u.chain = s.chain →
    u.dbuf l'.toNat = outputBytes t.outq → l'.toNat ≤ u.cfg.dbufSize → u.cfg.wf = true →
      ∃ v, exec (.sesFinal l') u = .next v ∧ v.done = true ∧ v.err = false ∧
        outputBytes v.outq = s.dbuf l.toNat ++ paddingOf s.pad (l.toNat % 16)

/-- O36 (43_modes.md R201). -/
def Obligations.PhaseMachine : Prop :=
  ∀ s : State,
    (∀ dir chain pad, s.kvalid = true → pad ≠ 3 →
      ∃ t, exec (.sesInit dir chain pad) s = .next t ∧ t.done = true ∧ t.phase = .active) ∧
    (∀ l, s.phase ≠ .active →
      exec (.sesUpdate l) s =
        .next { s with engine := .idle, err := true, errcode := 0x02, errcmd := encode (.sesUpdate l) } ∧
      exec (.sesFinal l) s =
        .next { s with engine := .idle, err := true, errcode := 0x02, errcmd := encode (.sesFinal l) }) ∧
    (∀ l t, s.phase = .active → exec (.sesUpdate l) s = .next t → t.phase = .active) ∧
    (∀ l t, s.phase = .active → s.err = false → exec (.sesFinal l) s = .next t →
      t.phase = if t.err then .active else .finished) ∧
    (∀ i t, exec i s = .next t → t.phase ≠ s.phase →
      (∃ dir chain pad, i = .sesInit dir chain pad) ∨ (∃ l, i = .sesFinal l))

/-- O37 (10_state.md R47, 41_key_expansion.md R176): over every step, access and event. -/
def Obligations.ScheduleFixedWhileSessionActive : Prop :=
  ∀ s t : State, step s = .next t → s.phase = .active → t.phase ≠ .idle →
    t.w = s.w ∧ t.aesMode = s.aesMode ∧ t.kvalid = s.kvalid

/-- O38 (43_modes.md R212, 70_reset_and_hazards.md R413): "any single command fits into an empty queue". -/
def Obligations.AnyCommandFitsAnEmptyQueue : Prop :=
  ∀ (l : BitVec 16) (s : State), s.cfg.wf = true → s.phase = .active → s.outq = [] → l.toNat ≤ s.cfg.dbufSize →
    (∃ t, exec (.sesUpdate l) s = .next t ∧ t.done = true ∧ t.err = s.err ∧ t.outq.length ≤ s.cfg.outqDepth) ∧
    (¬(s.pad = .none ∧ (s.bufLen.toNat + l.toNat) % 16 ≠ 0) →
      ∃ t, exec (.sesFinal l) s = .next t ∧ t.done = true ∧ t.err = s.err ∧ t.outq.length ≤ s.cfg.outqDepth)

/-! ## Big integers and RSA -/

/-- O39 (44_bignum.md R240, R242). -/
def Obligations.BnLdLoads : Prop :=
  ∀ (reg : BitVec 6) (l : BitVec 16) (s : State), bnRegExists s.cfg reg = true →
    (l.toNat ≤ s.cfg.kmax → ∃ t, exec (.bnLd reg l) s = .next t ∧ t.done = true ∧ t.err = s.err ∧
      t.bnVal reg = ((List.range l.toNat).map fun i => (s.dbufByte i).toNat * 256 ^ (l.toNat - 1 - i)).sum ∧
      t.bnValid reg = true) ∧
    (l.toNat > s.cfg.kmax → exec (.bnLd reg l) s =
      .next { s with engine := .idle, err := true, errcode := 0x02, errcmd := encode (.bnLd reg l) })

/-- O40 (44_bignum.md R241, R243, with the checks in their order). -/
def Obligations.BnStStores : Prop :=
  ∀ (reg : BitVec 6) (l : BitVec 16) (s : State), Memory.wf s.mem = true → reg ∈ [0, 1, 8, 9] →
    (l.toNat ≤ s.cfg.dbufSize → s.bnValid reg = true → s.bnVal reg < 256 ^ l.toNat →
      ∃ t, exec (.bnSt reg l) s = .next t ∧ t.done = true ∧ t.err = s.err ∧ t.dlen = l ∧
        ∀ i, i < l.toNat → (t.dbufByte i).toNat = s.bnVal reg / 256 ^ (l.toNat - 1 - i) % 256) ∧
    (l.toNat ≤ s.cfg.dbufSize → s.bnValid reg = true → 256 ^ l.toNat ≤ s.bnVal reg → exec (.bnSt reg l) s =
      .next { s with engine := .idle, err := true, errcode := 0x08, errcmd := encode (.bnSt reg l) }) ∧
    (l.toNat ≤ s.cfg.dbufSize → s.bnValid reg = false → exec (.bnSt reg l) s =
      .next { s with engine := .idle, err := true, errcode := 0x07, errcmd := encode (.bnSt reg l) }) ∧
    (s.cfg.dbufSize < l.toNat → exec (.bnSt reg l) s =
      .next { s with engine := .idle, err := true, errcode := 0x02, errcmd := encode (.bnSt reg l) })

/-- O41 (44_bignum.md R239). -/
def Obligations.LoadThenStoreReturnsTheBytes : Prop :=
  (∀ x : Bytes, i2osp (os2ip x) x.length = .ok x) ∧
  (∀ (v l : Nat) (x : Bytes), i2osp v l = .ok x → os2ip x = v) ∧
  (∀ (reg : BitVec 6) (l : BitVec 16) (s : State), Memory.wf s.mem = true → s.cfg.wf = true →
    reg ∈ [0, 1, 8, 9] → l.toNat ≤ s.cfg.kmax →
      ∃ t u, exec (.bnLd reg l) s = .next t ∧ exec (.bnSt reg l) t = .next u ∧ u.done = true ∧ u.err = s.err ∧
        u.dbuf l.toNat = s.dbuf l.toNat)

/-- O42 (45_rsa.md R261, R265, R262's form 0, R266, 44_bignum.md R237). -/
def Obligations.RsaPairAndPublicPrimitives : Prop :=
  ∀ s : State, s.bnValid regN = true → s.bnVal regN ≠ 0 →
    (s.bnValid regD = true → s.bnValid regM = true → s.bnVal regM < s.bnVal regN →
      ∃ t, exec (.rsaSp1 .pair) s = .next t ∧ t.done = true ∧ t.err = s.err ∧ t.bnValid regS = true ∧
        t.bnVal regS = s.bnVal regM ^ s.bnVal regD % s.bnVal regN) ∧
    (s.bnValid regE = true → s.bnValid regS = true → s.bnVal regS < s.bnVal regN →
      ∃ t, exec .rsaVp1 s = .next t ∧ t.done = true ∧ t.err = s.err ∧ t.bnValid regM = true ∧
        t.bnVal regM = s.bnVal regS ^ s.bnVal regE % s.bnVal regN)

/-- O43 (45_rsa.md R263, whose formulas are "from general knowledge"): the recombination written as one fold over the
triplets (r, d, t), carrying `R`, `prev` and `s`, with the differences as integers; and RSA.SP1 writes that value
(R262's form 1). -/
def Obligations.MultiPrimeRecombination : Prop :=
  (∀ (p q dP dQ qInv m : Nat) (more : List (Nat × Nat × Nat)),
    rsasp1MpValue p q dP dQ qInv more m =
      (more.foldl
        (fun (a : Nat × Nat × Nat) x =>
          (a.1 * a.2.1, x.1,
            a.2.2 + a.1 * a.2.1 * ((((m ^ x.2.1 % x.1 : Nat) : Int) - a.2.2) * x.2.2 % x.1).toNat))
        (p, q, m ^ dQ % q + q * ((((m ^ dP % p : Nat) : Int) - (m ^ dQ % q : Nat)) * qInv % p).toNat)).2.2) ∧
  (∀ s : State, s.keycheckMp = false → s.bnValid regM = true → s.bnVal regM < s.bnVal regN →
    s.multiPrimeValue (s.bnVal regM) < 2 ^ (8 * s.cfg.kmax) →
      ∃ t, exec (.rsaSp1 .multiPrime) s = .next t ∧ t.done = true ∧ t.err = s.err ∧ t.bnValid regS = true ∧
        t.bnVal regS = s.multiPrimeValue (s.bnVal regM))

/-- O44 (45_rsa.md R268, the spec's own derivation by the Chinese remainder theorem): with a consistent key the
MultiPrime form signs as the Pair form does. -/
def Obligations.CrtSignatureEqualsPairSignature : Prop :=
  ∀ s : State, s.keycheckMp = false → s.keycheckPair = false → s.bnValid regM = true →
    s.ConsistentMultiPrime (s.bnVal regD) → s.bnVal regM < s.bnVal regN →
    s.bnVal regN < 2 ^ (8 * s.cfg.kmax) →
      ∃ t, exec (.rsaSp1 .multiPrime) s = .next t ∧ exec (.rsaSp1 .pair) s = .next t ∧ t.done = true ∧
        t.bnVal regS = s.bnVal regM ^ s.bnVal regD % s.bnVal regN

/-- O45 (45_rsa.md R268, the spec's own derivation): "`RSAVP1(n, e, RSASP1(.., m)) = m` for every 0 <= m < n". -/
def Obligations.VerificationInvertsSignature : Prop :=
  ∀ s : State, s.keycheckPub = false → s.keycheckPair = false → s.bnValid regM = true →
    MatchingExponents (s.bnVal regN) (s.bnVal regE) (s.bnVal regD) → s.bnVal regM < s.bnVal regN →
      ∃ t u, exec (.rsaSp1 .pair) s = .next t ∧ exec .rsaVp1 t = .next u ∧ u.done = true ∧ u.err = s.err ∧
        u.bnVal regM = s.bnVal regM

/-! ## DER -/

/-- O46 (46_der.md R281, R283, R285; that DER.LENDEC reads exactly those encodings is R284's property, the spec's own
derivation, on R282's domain below 2^31, "from general knowledge"): DER.LENENC writes the canonical length; DER.LENDEC
reads it back from any string that starts with it. -/
def Obligations.DerLengthCommands : Prop :=
  ∀ s : State, Memory.wf s.mem = true →
    (s.arg0.toNat < 128 → ∃ t, exec .derLenenc s = .next t ∧ t.done = true ∧ t.err = s.err ∧ t.dlen = 1 ∧
      (t.dbufByte 0).toNat = s.arg0.toNat) ∧
    (128 ≤ s.arg0.toNat → s.arg0.toNat < 2 ^ 31 → ∃ (t : State) (count : Nat), exec .derLenenc s = .next t ∧
      t.done = true ∧ t.err = s.err ∧ 256 ^ (count - 1) ≤ s.arg0.toNat ∧ s.arg0.toNat < 256 ^ count ∧
      t.dlen.toNat = 1 + count ∧ (t.dbufByte 0).toNat = 128 + count ∧
      ∀ i, i < count → (t.dbufByte (1 + i)).toNat = s.arg0.toNat / 256 ^ (count - 1 - i) % 256) ∧
    (∀ (l : BitVec 16) (v : Nat) (y : Bytes), l.toNat ≤ s.cfg.dbufSize → v < 2 ^ 31 →
      s.dbuf l.toNat = derlen v ++ y →
        exec (.derLendec l) s = .next { s with
          engine := .idle, done := true, res0 := BitVec.ofNat 32 v, res1 := BitVec.ofNat 32 (derlen v).length }) ∧
    (∀ l : BitVec 16, l.toNat ≤ s.cfg.dbufSize → (∀ v y, v < 2 ^ 31 → s.dbuf l.toNat ≠ derlen v ++ y) →
      exec (.derLendec l) s =
        .next { s with engine := .idle, err := true, errcode := 0x09, errcmd := encode (.derLendec l) })

/-- O47 (46_der.md R284's property, the spec's own derivation). -/
def Obligations.DerLengthsAreExactInverses : Prop :=
  (∀ (v : Nat) (y : Bytes), v < 2 ^ 31 → derlenDec (derlen v ++ y) = .ok (v, (derlen v).length)) ∧
  (∀ (x : Bytes) (v c : Nat), derlenDec x = .ok (v, c) → v < 2 ^ 31 ∧ x.take c = derlen v) ∧
  (∀ (x : Bytes) (e : Exc), derlenDec x = .error e → e = .decodeError)

/-- O48 (46_der.md R286, R287, R289, R292): the bytes OID.ENC writes, the continuation groups by their shifts; the
components and results OID.DEC leaves. -/
def Obligations.ObjectIdentifierCommands : Prop :=
  (∀ c : Nat, base128 c =
    (List.range (max 1 ((bitlen c + 6) / 7))).map fun i =>
      BitVec.ofNat 8 ((c >>> (7 * (max 1 ((bitlen c + 6) / 7) - 1 - i))) % 128 +
        (if i + 1 < max 1 ((bitlen c + 6) / 7) then 128 else 0))) ∧
  (∀ s : State, Memory.wf s.mem = true → 2 ≤ s.oidn.toNat → s.oidn.toNat ≤ 16 →
    s.components.getD 0 0 ≤ 2 → (s.components.getD 0 0 < 2 → s.components.getD 1 0 ≤ 39) →
    40 * s.components.getD 0 0 + s.components.getD 1 0 ≤ 255 →
      ∃ t, exec .oidEnc s = .next t ∧ t.done = true ∧ t.err = s.err ∧ t.dlen.toNat ≤ 73 ∧
        t.dbuf t.dlen.toNat =
          [0x06#8, t.dlen.setWidth 8 - 2,
            BitVec.ofNat 8 (40 * s.components.getD 0 0 + s.components.getD 1 0)] ++
          (s.components.drop 2).flatMap base128) ∧
  (∀ (s : State) (l : BitVec 16) (o : List Nat) (e y : Bytes), l.toNat ≤ s.cfg.dbufSize → oidEnc o = .ok e →
    (∀ c ∈ o, c < 2 ^ 32) → s.dbuf l.toNat = e ++ y →
      ∃ t, exec (.oidDec l) s = .next t ∧ t.done = true ∧ t.err = s.err ∧ t.components = o ∧
        t.oidn.toNat = o.length ∧ t.res0.toNat = o.length ∧ t.res1.toNat = e.length)

/-- O49 (46_der.md R293, R291, the spec's own derivation): decoding undoes encoding, accepts nothing else, and the two
commands return the identifier. -/
def Obligations.ObjectIdentifiersRoundTrip : Prop :=
  (∀ (o : List Nat) (e y : Bytes), (∀ c ∈ o, c < 2 ^ 32) → oidEnc o = .ok e → oidDec (e ++ y) = .ok (o, e.length)) ∧
  (∀ (x : Bytes) (o : List Nat) (c : Nat), oidDec x = .ok (o, c) → oidEnc o = .ok (x.take c)) ∧
  (∀ (s t : State), Memory.wf s.mem = true → s.cfg.wf = true → s.err = false → exec .oidEnc s = .next t →
    t.err = false →
      ∃ u, exec (.oidDec t.dlen) t = .next u ∧ u.done = true ∧ u.err = false ∧ u.components = s.components ∧
        u.res1.toNat = t.dlen.toNat)

/-- O50 (46_der.md R295, R296, R297's `algid_enc` column, 10_state.md R46's table; the identifiers other than SHA256's
are "from general knowledge"). -/
def Obligations.AlgorithmTableCommands : Prop :=
  ∀ (alg : BitVec 4) (s : State),
    (alg.toNat < 9 → Memory.wf s.mem = true →
      ∃ t, exec (.algidEnc alg) s = .next t ∧ t.done = true ∧ t.err = s.err ∧
        t.dlen.toNat = algidLength alg ∧ t.dbuf (algidLength alg) = algidBytes alg) ∧
    (alg.toNat < 9 → ∃ t, exec (.oidLdalg alg) s = .next t ∧ t.done = true ∧ t.err = s.err ∧
      t.components = algorithmOid alg ∧ t.oidn.toNat = (algorithmOid alg).length ∧
      t.res0.toNat = hLenOf alg ∧ t.res1 = 0) ∧
    (9 ≤ alg.toNat →
      exec (.algidEnc alg) s =
        .next { s with engine := .idle, err := true, errcode := 0x06, errcmd := encode (.algidEnc alg) } ∧
      exec (.oidLdalg alg) s =
        .next { s with engine := .idle, err := true, errcode := 0x06, errcmd := encode (.oidLdalg alg) })

/-! ## PKCS #1 -/

/-- O51 (47_pkcs1.md R311, R312, R315, R318): the encoded message, and the signature of it, in both forms of key. -/
def Obligations.EmsaEncodesAndPkcsSigns : Prop :=
  ∀ (alg : BitVec 4) (s : State), Memory.wf s.mem = true → alg.toNat < 9 → s.hlen.toNat ≤ hLenOf alg →
    (∀ l : BitVec 16, l.toNat ≤ s.cfg.dbufSize → tLenOf s.cfg.emsaTForm alg s.hlen.toNat + 11 ≤ l.toNat →
      ∃ t, exec (.emsaEnc alg l) s = .next t ∧ t.done = true ∧ t.err = s.err ∧ t.dlen = l ∧
        t.dbuf l.toNat = emBytes s.cfg.emsaTForm alg (s.hbuf s.hlen.toNat) l.toNat) ∧
    (let n := s.bnVal regN
     let em := emBytes s.cfg.emsaTForm alg (s.hbuf s.hlen.toNat) (bytelen n)
     tLenOf s.cfg.emsaTForm alg s.hlen.toNat + 11 ≤ bytelen n →
       (s.keycheckPair = false →
         ∃ t, exec (.pkcsSign alg .pair) s = .next t ∧ t.done = true ∧ t.err = s.err ∧
           t.dlen = BitVec.ofNat 16 (bytelen n) ∧ os2ip (t.dbuf (bytelen n)) = os2ip em ^ s.bnVal regD % n) ∧
       (s.keycheckMp = false → s.multiPrimeValue (os2ip em) < 256 ^ bytelen n →
         ∃ t, exec (.pkcsSign alg .multiPrime) s = .next t ∧ t.done = true ∧ t.err = s.err ∧
           t.dlen = BitVec.ofNat 16 (bytelen n) ∧
           os2ip (t.dbuf (bytelen n)) = s.multiPrimeValue (os2ip em)))

/-- O52 (47_pkcs1.md R320, R321 (i) and (iii)): the boolean, and no exception once the algorithm, the length and the
key are in order. -/
def Obligations.PkcsVerifyFailsClosed : Prop :=
  ∀ (alg : BitVec 4) (l : BitVec 16) (s : State), alg.toNat < 9 → l.toNat ≤ s.cfg.dbufSize →
    s.keycheckPub = false →
      exec (.pkcsVerify alg l) s = .next { s with
        engine := .idle
        done := true
        res1 := 0
        res0 :=
          if l.toNat = bytelen (s.bnVal regN) ∧ os2ip (s.dbuf l.toNat) < s.bnVal regN ∧
              s.hlen.toNat ≤ hLenOf alg ∧
              tLenOf s.cfg.emsaTForm alg s.hlen.toNat + 11 ≤ bytelen (s.bnVal regN) ∧
              os2ip (s.dbuf l.toNat) ^ s.bnVal regE % s.bnVal regN =
                os2ip (emBytes s.cfg.emsaTForm alg (s.hbuf s.hlen.toNat) (bytelen (s.bnVal regN)))
          then 1 else 0 }

/-- O53 (47_pkcs1.md R321 (ii), the spec's own derivation): a signature PKCS.SIGN leaves verifies, in both forms of
key. -/
def Obligations.SignedMessageVerifies : Prop :=
  ∀ (alg : BitVec 4) (form : KeyForm) (s t : State), Memory.wf s.mem = true → s.cfg.wf = true →
    s.err = false → s.keycheckPub = false → s.bnVal regN < 2 ^ (8 * s.cfg.kmax) →
    MatchingExponents (s.bnVal regN) (s.bnVal regE) (s.bnVal regD) →
    (form = .multiPrime → s.ConsistentMultiPrime (s.bnVal regD)) →
    exec (.pkcsSign alg form) s = .next t → t.err = false →
      ∃ u, exec (.pkcsVerify alg t.dlen) t = .next u ∧ u.done = true ∧ u.err = false ∧ u.res0 = 1

/-! ## The bus -/

/-- O54 (20_memory.md R76, R77): the step is the access on the state with the event taken off the agenda (O6, O9, O10 and
O55 to O57 say what an access does), and it gets an access fault exactly when it is illegal, which changes no state. The
agenda and the response are log entries 3 and 6; that addresses below `BASE` fault, and that a `CMD` write dropped at
`ERR = 1` does not, is log entry 9. -/
def Obligations.IllegalAccessChangesNothing : Prop :=
  ∀ (s : State) (a : Access) (addr : Nat) (n : Width) (v : Word) (es : List Event),
    s.cfg.wf = true → s.engine = .idle → (a = .read addr n ∨ a = .write addr n v) → s.agenda = .host a :: es →
      ((∃ off, addr = s.cfg.base + off ∧ legalOffset s.cfg off n) →
        ∃ t r, step s = .next t ∧ t = ({ s with agenda := es } : State).hostAccess a ∧ t.agenda = es ∧
          t.resp = some r ∧ r ≠ .accessFault) ∧
      (¬(∃ off, addr = s.cfg.base + off ∧ legalOffset s.cfg off n) →
        step s = .next { s with agenda := es, resp := some .accessFault })

/-- O55 (20_memory.md R75, R79, R80, 10_state.md R23, R32, R33, R36, R38, R42; the response is log entry 6): reads leave
everything but the response, read-only offsets ignore writes, write-only ones read as zero; a write of a read/write
register or of an entry of `OIDV` stores its implemented bits there, leaves everything else, and reads back. -/
def Obligations.RegisterAccessRights : Prop :=
  ∀ s : State, s.engine = .idle →
    (∀ addr n, ∃ r, s.hostAccess (.read addr n) = { s with resp := some r }) ∧
    (∀ off v, off ∈ [0x00, 0x08, 0x0C, 0x10, 0x20, 0x24, 0x28, 0x30] →
      s.hostAccess (.write (s.cfg.base + off) .word v) = { s with resp := some .written }) ∧
    (∀ off n v, 0x40 ≤ off → off + n.bytes ≤ 0x50 → off % n.bytes = 0 →
      s.hostAccess (.write (s.cfg.base + off) n v) = { s with resp := some .written }) ∧
    (∀ off, off ∈ [0x04, 0x14] →
      s.hostAccess (.read (s.cfg.base + off) .word) = { s with resp := some (.data 0) }) ∧
    (∀ off n, 0x60 ≤ off → off + n.bytes ≤ 0x80 → off % n.bytes = 0 →
      s.hostAccess (.read (s.cfg.base + off) n) = { s with resp := some (.data 0) }) ∧
    (∀ v : Word,
      s.hostAccess (.write (s.cfg.base + 0x18) .word v) =
        { s with irqen := v.extractLsb' 0 3, resp := some .written } ∧
      s.hostAccess (.write (s.cfg.base + 0x1C) .word v) = { s with arg0 := v, resp := some .written } ∧
      s.hostAccess (.write (s.cfg.base + 0x2C) .word v) =
        { s with hlen := v.extractLsb' 0 7, resp := some .written } ∧
      s.hostAccess (.write (s.cfg.base + 0x34) .word v) =
        { s with oidn := v.extractLsb' 0 5, resp := some .written } ∧
      s.hostAccess (.write (s.cfg.base + 0x38) .word v) =
        { s with nap := v.extractLsb' 0 3, resp := some .written }) ∧
    (∀ (off : Nat) (mask v : Word),
      (off, mask) ∈ [(0x18, 0x7#32), (0x1C, 0xFFFFFFFF#32), (0x2C, 0x7F#32), (0x34, 0x1F#32), (0x38, 0x7#32)] →
        ((s.hostAccess (.write (s.cfg.base + off) .word v)).hostAccess
          (.read (s.cfg.base + off) .word)).resp = some (.data (v &&& mask))) ∧
    (∀ (i : Nat) (hi : i < 16) (v : Word), ∃ o : Vector Word 16,
      s.hostAccess (.write (s.cfg.base + (0x80 + 4 * i)) .word v) = { s with oidv := o, resp := some .written } ∧
      o[i] = v ∧ (∀ (k : Nat) (hk : k < 16), k ≠ i → o[k] = s.oidv[k]) ∧
      ((s.hostAccess (.write (s.cfg.base + (0x80 + 4 * i)) .word v)).hostAccess
        (.read (s.cfg.base + (0x80 + 4 * i)) .word)).resp = some (.data v))

/-- O56 (20_memory.md R73, R75, 10_state.md R40, R41, R43, R44, and 20_memory.md R78, the spec's own derivation; the
response is log entry 6, the memory list log entry 7): a 1-byte write at an offset of `IV`, `KEY`, `HBUF` or `DBUF` puts
that byte there and leaves every other byte and all else; in the byte windows a 4-byte access is the four 1-byte accesses
at the same offsets, a 2-byte access the two, lowest offset in the low bits. -/
def Obligations.WideAccessesEqualNarrowOnes : Prop :=
  ∀ (s : State) (off : Nat), s.cfg.wf = true → s.engine = .idle → 0x40 ≤ off → ¬(0x80 ≤ off ∧ off < 0xC0) →
    ((0x50 ≤ off ∧ off < 0x80) ∨ (0xC0 ≤ off ∧ off < 0x100) ∨ (0x1000 ≤ off ∧ off < 0x1000 + s.cfg.dbufSize) →
      Memory.wf s.mem = true → ∀ v : Word, ∃ m : Memory,
        s.hostAccess (.write (s.cfg.base + off) .byte v) = { s with mem := m, resp := some .written } ∧
        Memory.wf m = true ∧ (Memory.read m off).toNat = v.toNat % 256 ∧
        ∀ a, a ≠ off → Memory.read m a = Memory.read s.mem a) ∧
    (legalOffset s.cfg off .word →
      (∀ v : Word, s.hostAccess (.write (s.cfg.base + off) .word v) =
        (((s.hostAccess (.write (s.cfg.base + off) .byte v)).hostAccess
          (.write (s.cfg.base + (off + 1)) .byte (v >>> 8))).hostAccess
          (.write (s.cfg.base + (off + 2)) .byte (v >>> 16))).hostAccess
          (.write (s.cfg.base + (off + 3)) .byte (v >>> 24))) ∧
      (∃ v b0 b1 b2 b3 : Word,
        (s.hostAccess (.read (s.cfg.base + off) .word)).resp = some (.data v) ∧
        (s.hostAccess (.read (s.cfg.base + off) .byte)).resp = some (.data b0) ∧
        (s.hostAccess (.read (s.cfg.base + (off + 1)) .byte)).resp = some (.data b1) ∧
        (s.hostAccess (.read (s.cfg.base + (off + 2)) .byte)).resp = some (.data b2) ∧
        (s.hostAccess (.read (s.cfg.base + (off + 3)) .byte)).resp = some (.data b3) ∧
        b0.toNat < 256 ∧ b1.toNat < 256 ∧ b2.toNat < 256 ∧ b3.toNat < 256 ∧
        v.toNat = b0.toNat + 256 * b1.toNat + 65536 * b2.toNat + 16777216 * b3.toNat)) ∧
    (legalOffset s.cfg off .half →
      (∀ v : Word, s.hostAccess (.write (s.cfg.base + off) .half v) =
        (s.hostAccess (.write (s.cfg.base + off) .byte v)).hostAccess
          (.write (s.cfg.base + (off + 1)) .byte (v >>> 8))) ∧
      (∃ v b0 b1 : Word,
        (s.hostAccess (.read (s.cfg.base + off) .half)).resp = some (.data v) ∧
        (s.hostAccess (.read (s.cfg.base + off) .byte)).resp = some (.data b0) ∧
        (s.hostAccess (.read (s.cfg.base + (off + 1)) .byte)).resp = some (.data b1) ∧
        v.toNat = b0.toNat + 256 * b1.toNat))

/-- O57 (10_state.md R23, R26, R28 to R30, R32 to R40, R42 to R44, 20_memory.md R74, 60_exceptions.md R372; the response
is log entry 6): while `BUSY = 0`, what every readable offset reads as, and the interrupt output. -/
def Obligations.StatusAndInterruptViews : Prop :=
  ∀ s : State, s.engine = .idle →
    (∀ (off : Nat) (v : Word),
      (off, v) ∈ [(0x00, 0x4B4A5754#32), (0x0C, s.errcode.setWidth 32), (0x10, s.errcmd),
        (0x18, s.irqen.setWidth 32), (0x1C, s.arg0), (0x20, s.res0), (0x24, s.res1), (0x28, s.dlen.setWidth 32),
        (0x2C, s.hlen.setWidth 32), (0x34, s.oidn.setWidth 32), (0x38, s.nap.setWidth 32)] →
      (s.hostAccess (.read (s.cfg.base + off) .word)).resp = some (.data v)) ∧
    (∀ (i : Nat) (hi : i < 16),
      (s.hostAccess (.read (s.cfg.base + (0x80 + 4 * i)) .word)).resp = some (.data s.oidv[i])) ∧
    (∀ off, (0x50 ≤ off ∧ off < 0x60) ∨ (0xC0 ≤ off ∧ off < 0x100) ∨
        (s.cfg.wf = true ∧ 0x1000 ≤ off ∧ off < 0x1000 + s.cfg.dbufSize) →
      ∃ v : Word, (s.hostAccess (.read (s.cfg.base + off) .byte)).resp = some (.data v) ∧
        v.toNat = (Memory.read s.mem off).toNat) ∧
    (∃ v : Word, (s.hostAccess (.read (s.cfg.base + 0x08) .word)).resp = some (.data v) ∧
      v.toNat = 2 * s.done.toNat + 4 * s.err.toNat + 8 * s.kvalid.toNat +
        16 * (match s.phase with | .idle => 0 | .active => 1 | .finished => 2) +
        64 * (match s.dir with | .encrypt => 0 | .decrypt => 1) +
        128 * (match s.chainMode with | .ecb => 0 | .cbc => 1) +
        256 * (match s.pad with | .none => 0 | .zero => 1 | .pkcs7 => 2) +
        1024 * (match s.aesMode with | .aes128 => 0 | .aes192 => 1 | .aes256 => 2) + 65536 * s.bufLen.toNat) ∧
    (s.outq.length ≤ 255 →
      ∃ v : Word, (s.hostAccess (.read (s.cfg.base + 0x30) .word)).resp = some (.data v) ∧
        v.toNat = (match s.outq with | [] => 0 | .block _ :: _ => 1 | .endMark :: _ => 2) + 256 * s.outq.length) ∧
    (∀ i, i < 16 → ∃ v : Word, (s.hostAccess (.read (s.cfg.base + 0x40 + i) .byte)).resp = some (.data v) ∧
      v = (match s.outq with | .block b :: _ => (blockByte b i).setWidth 32 | _ => 0)) ∧
    (s.irq = true ↔ (s.done = true ∧ s.irqen.getLsbD 0 = true) ∨ (s.err = true ∧ s.irqen.getLsbD 1 = true) ∨
      (s.outq ≠ [] ∧ s.irqen.getLsbD 2 = true))

/-- O58 (60_exceptions.md R380: "`KEY` cannot be read, the schedule `W` and the private-key bignum registers cannot be
read or stored"; 10_state.md R48 for `CHAIN` and `BUF`): two states that differ only there answer every read alike and
drive `irq` alike, and no word that decodes stores a private-key register. -/
def Obligations.BusReadsRevealNoSecret : Prop :=
  (∀ s s' : State, s.engine = .idle →
    s' = { s with w := s'.w, bn := s'.bn, chain := s'.chain, buf := s'.buf, mem := s'.mem } →
    (∀ a, ¬(0x60 ≤ a ∧ a < 0x80) → Memory.read s'.mem a = Memory.read s.mem a) →
      (∀ addr n, (s'.hostAccess (.read addr n)).resp = (s.hostAccess (.read addr n)).resp) ∧ s'.irq = s.irq) ∧
  (∀ (cfg : Config) (c : Word) (reg : BitVec 6) (l : BitVec 16), decode cfg c = .ok (.bnSt reg l) →
    reg = 0 ∨ reg = 1 ∨ reg = 8 ∨ reg = 9)

/-! ## The invariant -/

/-- O59 (10_state.md R51, R52; the items about the memory list and the parameters are the model's, log entries 1 and
7). -/
def Obligations.ResetMeetsInvariant : Prop := ∀ cfg : Config, cfg.wf = true → (State.resetOf cfg).Inv

/-- O60 (10_state.md R51, the spec's own derivation; the items of log entries 1 and 7 are the model's): from every
state that meets the invariant the machine goes on, to a state that meets it; the parameters stay. -/
def Obligations.EveryStepKeepsInvariant : Prop :=
  ∀ s : State, s.Inv → ∃ t, step s = .next t ∧ t.Inv ∧ t.cfg = s.cfg
end

