-- ==== Sys2Proof/Laws/State.lean ====
section
/-! SUPPORT. One lemma per field per named update of State, true by rfl: what each shared operation writes and
that it writes nothing else. -/

namespace Sys2Proof.Machine

open Sys2Proof

variable (s : State)

/-! ## accept -/

@[simp] theorem State.accept_cfg (c : Word) : (s.accept c).cfg = s.cfg := rfl
@[simp] theorem State.accept_engine (c : Word) : (s.accept c).engine = .running c := rfl
@[simp] theorem State.accept_done (c : Word) : (s.accept c).done = false := rfl
@[simp] theorem State.accept_err (c : Word) : (s.accept c).err = s.err := rfl
@[simp] theorem State.accept_errcode (c : Word) : (s.accept c).errcode = s.errcode := rfl
@[simp] theorem State.accept_errcmd (c : Word) : (s.accept c).errcmd = s.errcmd := rfl
@[simp] theorem State.accept_irqen (c : Word) : (s.accept c).irqen = s.irqen := rfl
@[simp] theorem State.accept_arg0 (c : Word) : (s.accept c).arg0 = s.arg0 := rfl
@[simp] theorem State.accept_res0 (c : Word) : (s.accept c).res0 = s.res0 := rfl
@[simp] theorem State.accept_res1 (c : Word) : (s.accept c).res1 = s.res1 := rfl
@[simp] theorem State.accept_dlen (c : Word) : (s.accept c).dlen = s.dlen := rfl
@[simp] theorem State.accept_hlen (c : Word) : (s.accept c).hlen = s.hlen := rfl
@[simp] theorem State.accept_oidn (c : Word) : (s.accept c).oidn = s.oidn := rfl
@[simp] theorem State.accept_nap (c : Word) : (s.accept c).nap = s.nap := rfl
@[simp] theorem State.accept_mem (c : Word) : (s.accept c).mem = s.mem := rfl
@[simp] theorem State.accept_oidv (c : Word) : (s.accept c).oidv = s.oidv := rfl
@[simp] theorem State.accept_outq (c : Word) : (s.accept c).outq = s.outq := rfl
@[simp] theorem State.accept_bn (c : Word) : (s.accept c).bn = s.bn := rfl
@[simp] theorem State.accept_w (c : Word) : (s.accept c).w = s.w := rfl
@[simp] theorem State.accept_kvalid (c : Word) : (s.accept c).kvalid = s.kvalid := rfl
@[simp] theorem State.accept_aesMode (c : Word) : (s.accept c).aesMode = s.aesMode := rfl
@[simp] theorem State.accept_phase (c : Word) : (s.accept c).phase = s.phase := rfl
@[simp] theorem State.accept_dir (c : Word) : (s.accept c).dir = s.dir := rfl
@[simp] theorem State.accept_chainMode (c : Word) : (s.accept c).chainMode = s.chainMode := rfl
@[simp] theorem State.accept_pad (c : Word) : (s.accept c).pad = s.pad := rfl
@[simp] theorem State.accept_chain (c : Word) : (s.accept c).chain = s.chain := rfl
@[simp] theorem State.accept_buf (c : Word) : (s.accept c).buf = s.buf := rfl
@[simp] theorem State.accept_bufLen (c : Word) : (s.accept c).bufLen = s.bufLen := rfl
@[simp] theorem State.accept_agenda (c : Word) : (s.accept c).agenda = s.agenda := rfl
@[simp] theorem State.accept_resp (c : Word) : (s.accept c).resp = s.resp := rfl
@[simp] theorem State.accept_freeCtr (c : Word) : (s.accept c).freeCtr = s.freeCtr := rfl

/-! ## raise -/

@[simp] theorem State.raise_cfg (x : Exc) (c : Word) : (s.raise x c).cfg = s.cfg := rfl
@[simp] theorem State.raise_engine (x : Exc) (c : Word) : (s.raise x c).engine = .idle := rfl
@[simp] theorem State.raise_done (x : Exc) (c : Word) : (s.raise x c).done = s.done := rfl
@[simp] theorem State.raise_err (x : Exc) (c : Word) : (s.raise x c).err = true := rfl
@[simp] theorem State.raise_errcode (x : Exc) (c : Word) : (s.raise x c).errcode = x.code := rfl
@[simp] theorem State.raise_errcmd (x : Exc) (c : Word) : (s.raise x c).errcmd = c := rfl
@[simp] theorem State.raise_irqen (x : Exc) (c : Word) : (s.raise x c).irqen = s.irqen := rfl
@[simp] theorem State.raise_arg0 (x : Exc) (c : Word) : (s.raise x c).arg0 = s.arg0 := rfl
@[simp] theorem State.raise_res0 (x : Exc) (c : Word) : (s.raise x c).res0 = s.res0 := rfl
@[simp] theorem State.raise_res1 (x : Exc) (c : Word) : (s.raise x c).res1 = s.res1 := rfl
@[simp] theorem State.raise_dlen (x : Exc) (c : Word) : (s.raise x c).dlen = s.dlen := rfl
@[simp] theorem State.raise_hlen (x : Exc) (c : Word) : (s.raise x c).hlen = s.hlen := rfl
@[simp] theorem State.raise_oidn (x : Exc) (c : Word) : (s.raise x c).oidn = s.oidn := rfl
@[simp] theorem State.raise_nap (x : Exc) (c : Word) : (s.raise x c).nap = s.nap := rfl
@[simp] theorem State.raise_mem (x : Exc) (c : Word) : (s.raise x c).mem = s.mem := rfl
@[simp] theorem State.raise_oidv (x : Exc) (c : Word) : (s.raise x c).oidv = s.oidv := rfl
@[simp] theorem State.raise_outq (x : Exc) (c : Word) : (s.raise x c).outq = s.outq := rfl
@[simp] theorem State.raise_bn (x : Exc) (c : Word) : (s.raise x c).bn = s.bn := rfl
@[simp] theorem State.raise_w (x : Exc) (c : Word) : (s.raise x c).w = s.w := rfl
@[simp] theorem State.raise_kvalid (x : Exc) (c : Word) : (s.raise x c).kvalid = s.kvalid := rfl
@[simp] theorem State.raise_aesMode (x : Exc) (c : Word) : (s.raise x c).aesMode = s.aesMode := rfl
@[simp] theorem State.raise_phase (x : Exc) (c : Word) : (s.raise x c).phase = s.phase := rfl
@[simp] theorem State.raise_dir (x : Exc) (c : Word) : (s.raise x c).dir = s.dir := rfl
@[simp] theorem State.raise_chainMode (x : Exc) (c : Word) : (s.raise x c).chainMode = s.chainMode := rfl
@[simp] theorem State.raise_pad (x : Exc) (c : Word) : (s.raise x c).pad = s.pad := rfl
@[simp] theorem State.raise_chain (x : Exc) (c : Word) : (s.raise x c).chain = s.chain := rfl
@[simp] theorem State.raise_buf (x : Exc) (c : Word) : (s.raise x c).buf = s.buf := rfl
@[simp] theorem State.raise_bufLen (x : Exc) (c : Word) : (s.raise x c).bufLen = s.bufLen := rfl
@[simp] theorem State.raise_agenda (x : Exc) (c : Word) : (s.raise x c).agenda = s.agenda := rfl
@[simp] theorem State.raise_resp (x : Exc) (c : Word) : (s.raise x c).resp = s.resp := rfl
@[simp] theorem State.raise_freeCtr (x : Exc) (c : Word) : (s.raise x c).freeCtr = s.freeCtr := rfl

/-! ## complete -/

@[simp] theorem State.complete_cfg : (s.complete).cfg = s.cfg := rfl
@[simp] theorem State.complete_engine : (s.complete).engine = .idle := rfl
@[simp] theorem State.complete_done : (s.complete).done = true := rfl
@[simp] theorem State.complete_err : (s.complete).err = s.err := rfl
@[simp] theorem State.complete_errcode : (s.complete).errcode = s.errcode := rfl
@[simp] theorem State.complete_errcmd : (s.complete).errcmd = s.errcmd := rfl
@[simp] theorem State.complete_irqen : (s.complete).irqen = s.irqen := rfl
@[simp] theorem State.complete_arg0 : (s.complete).arg0 = s.arg0 := rfl
@[simp] theorem State.complete_res0 : (s.complete).res0 = s.res0 := rfl
@[simp] theorem State.complete_res1 : (s.complete).res1 = s.res1 := rfl
@[simp] theorem State.complete_dlen : (s.complete).dlen = s.dlen := rfl
@[simp] theorem State.complete_hlen : (s.complete).hlen = s.hlen := rfl
@[simp] theorem State.complete_oidn : (s.complete).oidn = s.oidn := rfl
@[simp] theorem State.complete_nap : (s.complete).nap = s.nap := rfl
@[simp] theorem State.complete_mem : (s.complete).mem = s.mem := rfl
@[simp] theorem State.complete_oidv : (s.complete).oidv = s.oidv := rfl
@[simp] theorem State.complete_outq : (s.complete).outq = s.outq := rfl
@[simp] theorem State.complete_bn : (s.complete).bn = s.bn := rfl
@[simp] theorem State.complete_w : (s.complete).w = s.w := rfl
@[simp] theorem State.complete_kvalid : (s.complete).kvalid = s.kvalid := rfl
@[simp] theorem State.complete_aesMode : (s.complete).aesMode = s.aesMode := rfl
@[simp] theorem State.complete_phase : (s.complete).phase = s.phase := rfl
@[simp] theorem State.complete_dir : (s.complete).dir = s.dir := rfl
@[simp] theorem State.complete_chainMode : (s.complete).chainMode = s.chainMode := rfl
@[simp] theorem State.complete_pad : (s.complete).pad = s.pad := rfl
@[simp] theorem State.complete_chain : (s.complete).chain = s.chain := rfl
@[simp] theorem State.complete_buf : (s.complete).buf = s.buf := rfl
@[simp] theorem State.complete_bufLen : (s.complete).bufLen = s.bufLen := rfl
@[simp] theorem State.complete_agenda : (s.complete).agenda = s.agenda := rfl
@[simp] theorem State.complete_resp : (s.complete).resp = s.resp := rfl
@[simp] theorem State.complete_freeCtr : (s.complete).freeCtr = s.freeCtr := rfl

/-! ## clearError -/

@[simp] theorem State.clearError_cfg : (s.clearError).cfg = s.cfg := rfl
@[simp] theorem State.clearError_engine : (s.clearError).engine = s.engine := rfl
@[simp] theorem State.clearError_done : (s.clearError).done = s.done := rfl
@[simp] theorem State.clearError_err : (s.clearError).err = false := rfl
@[simp] theorem State.clearError_errcode : (s.clearError).errcode = 0 := rfl
@[simp] theorem State.clearError_errcmd : (s.clearError).errcmd = 0 := rfl
@[simp] theorem State.clearError_irqen : (s.clearError).irqen = s.irqen := rfl
@[simp] theorem State.clearError_arg0 : (s.clearError).arg0 = s.arg0 := rfl
@[simp] theorem State.clearError_res0 : (s.clearError).res0 = s.res0 := rfl
@[simp] theorem State.clearError_res1 : (s.clearError).res1 = s.res1 := rfl
@[simp] theorem State.clearError_dlen : (s.clearError).dlen = s.dlen := rfl
@[simp] theorem State.clearError_hlen : (s.clearError).hlen = s.hlen := rfl
@[simp] theorem State.clearError_oidn : (s.clearError).oidn = s.oidn := rfl
@[simp] theorem State.clearError_nap : (s.clearError).nap = s.nap := rfl
@[simp] theorem State.clearError_mem : (s.clearError).mem = s.mem := rfl
@[simp] theorem State.clearError_oidv : (s.clearError).oidv = s.oidv := rfl
@[simp] theorem State.clearError_outq : (s.clearError).outq = s.outq := rfl
@[simp] theorem State.clearError_bn : (s.clearError).bn = s.bn := rfl
@[simp] theorem State.clearError_w : (s.clearError).w = s.w := rfl
@[simp] theorem State.clearError_kvalid : (s.clearError).kvalid = s.kvalid := rfl
@[simp] theorem State.clearError_aesMode : (s.clearError).aesMode = s.aesMode := rfl
@[simp] theorem State.clearError_phase : (s.clearError).phase = s.phase := rfl
@[simp] theorem State.clearError_dir : (s.clearError).dir = s.dir := rfl
@[simp] theorem State.clearError_chainMode : (s.clearError).chainMode = s.chainMode := rfl
@[simp] theorem State.clearError_pad : (s.clearError).pad = s.pad := rfl
@[simp] theorem State.clearError_chain : (s.clearError).chain = s.chain := rfl
@[simp] theorem State.clearError_buf : (s.clearError).buf = s.buf := rfl
@[simp] theorem State.clearError_bufLen : (s.clearError).bufLen = s.bufLen := rfl
@[simp] theorem State.clearError_agenda : (s.clearError).agenda = s.agenda := rfl
@[simp] theorem State.clearError_resp : (s.clearError).resp = s.resp := rfl
@[simp] theorem State.clearError_freeCtr : (s.clearError).freeCtr = s.freeCtr := rfl

/-! ## popOutput -/

@[simp] theorem State.popOutput_cfg : (s.popOutput).cfg = s.cfg := rfl
@[simp] theorem State.popOutput_engine : (s.popOutput).engine = s.engine := rfl
@[simp] theorem State.popOutput_done : (s.popOutput).done = s.done := rfl
@[simp] theorem State.popOutput_err : (s.popOutput).err = s.err := rfl
@[simp] theorem State.popOutput_errcode : (s.popOutput).errcode = s.errcode := rfl
@[simp] theorem State.popOutput_errcmd : (s.popOutput).errcmd = s.errcmd := rfl
@[simp] theorem State.popOutput_irqen : (s.popOutput).irqen = s.irqen := rfl
@[simp] theorem State.popOutput_arg0 : (s.popOutput).arg0 = s.arg0 := rfl
@[simp] theorem State.popOutput_res0 : (s.popOutput).res0 = s.res0 := rfl
@[simp] theorem State.popOutput_res1 : (s.popOutput).res1 = s.res1 := rfl
@[simp] theorem State.popOutput_dlen : (s.popOutput).dlen = s.dlen := rfl
@[simp] theorem State.popOutput_hlen : (s.popOutput).hlen = s.hlen := rfl
@[simp] theorem State.popOutput_oidn : (s.popOutput).oidn = s.oidn := rfl
@[simp] theorem State.popOutput_nap : (s.popOutput).nap = s.nap := rfl
@[simp] theorem State.popOutput_mem : (s.popOutput).mem = s.mem := rfl
@[simp] theorem State.popOutput_oidv : (s.popOutput).oidv = s.oidv := rfl
@[simp] theorem State.popOutput_outq : (s.popOutput).outq = s.outq.tail := rfl
@[simp] theorem State.popOutput_bn : (s.popOutput).bn = s.bn := rfl
@[simp] theorem State.popOutput_w : (s.popOutput).w = s.w := rfl
@[simp] theorem State.popOutput_kvalid : (s.popOutput).kvalid = s.kvalid := rfl
@[simp] theorem State.popOutput_aesMode : (s.popOutput).aesMode = s.aesMode := rfl
@[simp] theorem State.popOutput_phase : (s.popOutput).phase = s.phase := rfl
@[simp] theorem State.popOutput_dir : (s.popOutput).dir = s.dir := rfl
@[simp] theorem State.popOutput_chainMode : (s.popOutput).chainMode = s.chainMode := rfl
@[simp] theorem State.popOutput_pad : (s.popOutput).pad = s.pad := rfl
@[simp] theorem State.popOutput_chain : (s.popOutput).chain = s.chain := rfl
@[simp] theorem State.popOutput_buf : (s.popOutput).buf = s.buf := rfl
@[simp] theorem State.popOutput_bufLen : (s.popOutput).bufLen = s.bufLen := rfl
@[simp] theorem State.popOutput_agenda : (s.popOutput).agenda = s.agenda := rfl
@[simp] theorem State.popOutput_resp : (s.popOutput).resp = s.resp := rfl
@[simp] theorem State.popOutput_freeCtr : (s.popOutput).freeCtr = s.freeCtr := rfl

/-! ## respond -/

@[simp] theorem State.respond_cfg (r : BusResponse) : (s.respond r).cfg = s.cfg := rfl
@[simp] theorem State.respond_engine (r : BusResponse) : (s.respond r).engine = s.engine := rfl
@[simp] theorem State.respond_done (r : BusResponse) : (s.respond r).done = s.done := rfl
@[simp] theorem State.respond_err (r : BusResponse) : (s.respond r).err = s.err := rfl
@[simp] theorem State.respond_errcode (r : BusResponse) : (s.respond r).errcode = s.errcode := rfl
@[simp] theorem State.respond_errcmd (r : BusResponse) : (s.respond r).errcmd = s.errcmd := rfl
@[simp] theorem State.respond_irqen (r : BusResponse) : (s.respond r).irqen = s.irqen := rfl
@[simp] theorem State.respond_arg0 (r : BusResponse) : (s.respond r).arg0 = s.arg0 := rfl
@[simp] theorem State.respond_res0 (r : BusResponse) : (s.respond r).res0 = s.res0 := rfl
@[simp] theorem State.respond_res1 (r : BusResponse) : (s.respond r).res1 = s.res1 := rfl
@[simp] theorem State.respond_dlen (r : BusResponse) : (s.respond r).dlen = s.dlen := rfl
@[simp] theorem State.respond_hlen (r : BusResponse) : (s.respond r).hlen = s.hlen := rfl
@[simp] theorem State.respond_oidn (r : BusResponse) : (s.respond r).oidn = s.oidn := rfl
@[simp] theorem State.respond_nap (r : BusResponse) : (s.respond r).nap = s.nap := rfl
@[simp] theorem State.respond_mem (r : BusResponse) : (s.respond r).mem = s.mem := rfl
@[simp] theorem State.respond_oidv (r : BusResponse) : (s.respond r).oidv = s.oidv := rfl
@[simp] theorem State.respond_outq (r : BusResponse) : (s.respond r).outq = s.outq := rfl
@[simp] theorem State.respond_bn (r : BusResponse) : (s.respond r).bn = s.bn := rfl
@[simp] theorem State.respond_w (r : BusResponse) : (s.respond r).w = s.w := rfl
@[simp] theorem State.respond_kvalid (r : BusResponse) : (s.respond r).kvalid = s.kvalid := rfl
@[simp] theorem State.respond_aesMode (r : BusResponse) : (s.respond r).aesMode = s.aesMode := rfl
@[simp] theorem State.respond_phase (r : BusResponse) : (s.respond r).phase = s.phase := rfl
@[simp] theorem State.respond_dir (r : BusResponse) : (s.respond r).dir = s.dir := rfl
@[simp] theorem State.respond_chainMode (r : BusResponse) : (s.respond r).chainMode = s.chainMode := rfl
@[simp] theorem State.respond_pad (r : BusResponse) : (s.respond r).pad = s.pad := rfl
@[simp] theorem State.respond_chain (r : BusResponse) : (s.respond r).chain = s.chain := rfl
@[simp] theorem State.respond_buf (r : BusResponse) : (s.respond r).buf = s.buf := rfl
@[simp] theorem State.respond_bufLen (r : BusResponse) : (s.respond r).bufLen = s.bufLen := rfl
@[simp] theorem State.respond_agenda (r : BusResponse) : (s.respond r).agenda = s.agenda := rfl
@[simp] theorem State.respond_resp (r : BusResponse) : (s.respond r).resp = some r := rfl
@[simp] theorem State.respond_freeCtr (r : BusResponse) : (s.respond r).freeCtr = s.freeCtr := rfl

/-! ## withAgenda -/

@[simp] theorem State.withAgenda_cfg (es : List Event) : (s.withAgenda es).cfg = s.cfg := rfl
@[simp] theorem State.withAgenda_engine (es : List Event) : (s.withAgenda es).engine = s.engine := rfl
@[simp] theorem State.withAgenda_done (es : List Event) : (s.withAgenda es).done = s.done := rfl
@[simp] theorem State.withAgenda_err (es : List Event) : (s.withAgenda es).err = s.err := rfl
@[simp] theorem State.withAgenda_errcode (es : List Event) : (s.withAgenda es).errcode = s.errcode := rfl
@[simp] theorem State.withAgenda_errcmd (es : List Event) : (s.withAgenda es).errcmd = s.errcmd := rfl
@[simp] theorem State.withAgenda_irqen (es : List Event) : (s.withAgenda es).irqen = s.irqen := rfl
@[simp] theorem State.withAgenda_arg0 (es : List Event) : (s.withAgenda es).arg0 = s.arg0 := rfl
@[simp] theorem State.withAgenda_res0 (es : List Event) : (s.withAgenda es).res0 = s.res0 := rfl
@[simp] theorem State.withAgenda_res1 (es : List Event) : (s.withAgenda es).res1 = s.res1 := rfl
@[simp] theorem State.withAgenda_dlen (es : List Event) : (s.withAgenda es).dlen = s.dlen := rfl
@[simp] theorem State.withAgenda_hlen (es : List Event) : (s.withAgenda es).hlen = s.hlen := rfl
@[simp] theorem State.withAgenda_oidn (es : List Event) : (s.withAgenda es).oidn = s.oidn := rfl
@[simp] theorem State.withAgenda_nap (es : List Event) : (s.withAgenda es).nap = s.nap := rfl
@[simp] theorem State.withAgenda_mem (es : List Event) : (s.withAgenda es).mem = s.mem := rfl
@[simp] theorem State.withAgenda_oidv (es : List Event) : (s.withAgenda es).oidv = s.oidv := rfl
@[simp] theorem State.withAgenda_outq (es : List Event) : (s.withAgenda es).outq = s.outq := rfl
@[simp] theorem State.withAgenda_bn (es : List Event) : (s.withAgenda es).bn = s.bn := rfl
@[simp] theorem State.withAgenda_w (es : List Event) : (s.withAgenda es).w = s.w := rfl
@[simp] theorem State.withAgenda_kvalid (es : List Event) : (s.withAgenda es).kvalid = s.kvalid := rfl
@[simp] theorem State.withAgenda_aesMode (es : List Event) : (s.withAgenda es).aesMode = s.aesMode := rfl
@[simp] theorem State.withAgenda_phase (es : List Event) : (s.withAgenda es).phase = s.phase := rfl
@[simp] theorem State.withAgenda_dir (es : List Event) : (s.withAgenda es).dir = s.dir := rfl
@[simp] theorem State.withAgenda_chainMode (es : List Event) : (s.withAgenda es).chainMode = s.chainMode := rfl
@[simp] theorem State.withAgenda_pad (es : List Event) : (s.withAgenda es).pad = s.pad := rfl
@[simp] theorem State.withAgenda_chain (es : List Event) : (s.withAgenda es).chain = s.chain := rfl
@[simp] theorem State.withAgenda_buf (es : List Event) : (s.withAgenda es).buf = s.buf := rfl
@[simp] theorem State.withAgenda_bufLen (es : List Event) : (s.withAgenda es).bufLen = s.bufLen := rfl
@[simp] theorem State.withAgenda_agenda (es : List Event) : (s.withAgenda es).agenda = es := rfl
@[simp] theorem State.withAgenda_resp (es : List Event) : (s.withAgenda es).resp = s.resp := rfl
@[simp] theorem State.withAgenda_freeCtr (es : List Event) : (s.withAgenda es).freeCtr = s.freeCtr := rfl

/-! ## putBn -/

@[simp] theorem State.putBn_cfg (r : BitVec 6) (v : Nat) : (s.putBn r v).cfg = s.cfg := rfl
@[simp] theorem State.putBn_engine (r : BitVec 6) (v : Nat) : (s.putBn r v).engine = s.engine := rfl
@[simp] theorem State.putBn_done (r : BitVec 6) (v : Nat) : (s.putBn r v).done = s.done := rfl
@[simp] theorem State.putBn_err (r : BitVec 6) (v : Nat) : (s.putBn r v).err = s.err := rfl
@[simp] theorem State.putBn_errcode (r : BitVec 6) (v : Nat) : (s.putBn r v).errcode = s.errcode := rfl
@[simp] theorem State.putBn_errcmd (r : BitVec 6) (v : Nat) : (s.putBn r v).errcmd = s.errcmd := rfl
@[simp] theorem State.putBn_irqen (r : BitVec 6) (v : Nat) : (s.putBn r v).irqen = s.irqen := rfl
@[simp] theorem State.putBn_arg0 (r : BitVec 6) (v : Nat) : (s.putBn r v).arg0 = s.arg0 := rfl
@[simp] theorem State.putBn_res0 (r : BitVec 6) (v : Nat) : (s.putBn r v).res0 = s.res0 := rfl
@[simp] theorem State.putBn_res1 (r : BitVec 6) (v : Nat) : (s.putBn r v).res1 = s.res1 := rfl
@[simp] theorem State.putBn_dlen (r : BitVec 6) (v : Nat) : (s.putBn r v).dlen = s.dlen := rfl
@[simp] theorem State.putBn_hlen (r : BitVec 6) (v : Nat) : (s.putBn r v).hlen = s.hlen := rfl
@[simp] theorem State.putBn_oidn (r : BitVec 6) (v : Nat) : (s.putBn r v).oidn = s.oidn := rfl
@[simp] theorem State.putBn_nap (r : BitVec 6) (v : Nat) : (s.putBn r v).nap = s.nap := rfl
@[simp] theorem State.putBn_mem (r : BitVec 6) (v : Nat) : (s.putBn r v).mem = s.mem := rfl
@[simp] theorem State.putBn_oidv (r : BitVec 6) (v : Nat) : (s.putBn r v).oidv = s.oidv := rfl
@[simp] theorem State.putBn_outq (r : BitVec 6) (v : Nat) : (s.putBn r v).outq = s.outq := rfl
@[simp] theorem State.putBn_bn (r : BitVec 6) (v : Nat) : (s.putBn r v).bn = s.bn.set r.toNat ⟨v, true⟩ r.isLt := rfl
@[simp] theorem State.putBn_w (r : BitVec 6) (v : Nat) : (s.putBn r v).w = s.w := rfl
@[simp] theorem State.putBn_kvalid (r : BitVec 6) (v : Nat) : (s.putBn r v).kvalid = s.kvalid := rfl
@[simp] theorem State.putBn_aesMode (r : BitVec 6) (v : Nat) : (s.putBn r v).aesMode = s.aesMode := rfl
@[simp] theorem State.putBn_phase (r : BitVec 6) (v : Nat) : (s.putBn r v).phase = s.phase := rfl
@[simp] theorem State.putBn_dir (r : BitVec 6) (v : Nat) : (s.putBn r v).dir = s.dir := rfl
@[simp] theorem State.putBn_chainMode (r : BitVec 6) (v : Nat) : (s.putBn r v).chainMode = s.chainMode := rfl
@[simp] theorem State.putBn_pad (r : BitVec 6) (v : Nat) : (s.putBn r v).pad = s.pad := rfl
@[simp] theorem State.putBn_chain (r : BitVec 6) (v : Nat) : (s.putBn r v).chain = s.chain := rfl
@[simp] theorem State.putBn_buf (r : BitVec 6) (v : Nat) : (s.putBn r v).buf = s.buf := rfl
@[simp] theorem State.putBn_bufLen (r : BitVec 6) (v : Nat) : (s.putBn r v).bufLen = s.bufLen := rfl
@[simp] theorem State.putBn_agenda (r : BitVec 6) (v : Nat) : (s.putBn r v).agenda = s.agenda := rfl
@[simp] theorem State.putBn_resp (r : BitVec 6) (v : Nat) : (s.putBn r v).resp = s.resp := rfl
@[simp] theorem State.putBn_freeCtr (r : BitVec 6) (v : Nat) : (s.putBn r v).freeCtr = s.freeCtr := rfl

/-! ## putDbuf -/

@[simp] theorem State.putDbuf_cfg (x : Bytes) : (s.putDbuf x).cfg = s.cfg := rfl
@[simp] theorem State.putDbuf_engine (x : Bytes) : (s.putDbuf x).engine = s.engine := rfl
@[simp] theorem State.putDbuf_done (x : Bytes) : (s.putDbuf x).done = s.done := rfl
@[simp] theorem State.putDbuf_err (x : Bytes) : (s.putDbuf x).err = s.err := rfl
@[simp] theorem State.putDbuf_errcode (x : Bytes) : (s.putDbuf x).errcode = s.errcode := rfl
@[simp] theorem State.putDbuf_errcmd (x : Bytes) : (s.putDbuf x).errcmd = s.errcmd := rfl
@[simp] theorem State.putDbuf_irqen (x : Bytes) : (s.putDbuf x).irqen = s.irqen := rfl
@[simp] theorem State.putDbuf_arg0 (x : Bytes) : (s.putDbuf x).arg0 = s.arg0 := rfl
@[simp] theorem State.putDbuf_res0 (x : Bytes) : (s.putDbuf x).res0 = s.res0 := rfl
@[simp] theorem State.putDbuf_res1 (x : Bytes) : (s.putDbuf x).res1 = s.res1 := rfl
@[simp] theorem State.putDbuf_dlen (x : Bytes) : (s.putDbuf x).dlen = BitVec.ofNat 16 x.length := rfl
@[simp] theorem State.putDbuf_hlen (x : Bytes) : (s.putDbuf x).hlen = s.hlen := rfl
@[simp] theorem State.putDbuf_oidn (x : Bytes) : (s.putDbuf x).oidn = s.oidn := rfl
@[simp] theorem State.putDbuf_nap (x : Bytes) : (s.putDbuf x).nap = s.nap := rfl
@[simp] theorem State.putDbuf_mem (x : Bytes) : (s.putDbuf x).mem = Memory.writeBytes s.mem dbufBase x := rfl
@[simp] theorem State.putDbuf_oidv (x : Bytes) : (s.putDbuf x).oidv = s.oidv := rfl
@[simp] theorem State.putDbuf_outq (x : Bytes) : (s.putDbuf x).outq = s.outq := rfl
@[simp] theorem State.putDbuf_bn (x : Bytes) : (s.putDbuf x).bn = s.bn := rfl
@[simp] theorem State.putDbuf_w (x : Bytes) : (s.putDbuf x).w = s.w := rfl
@[simp] theorem State.putDbuf_kvalid (x : Bytes) : (s.putDbuf x).kvalid = s.kvalid := rfl
@[simp] theorem State.putDbuf_aesMode (x : Bytes) : (s.putDbuf x).aesMode = s.aesMode := rfl
@[simp] theorem State.putDbuf_phase (x : Bytes) : (s.putDbuf x).phase = s.phase := rfl
@[simp] theorem State.putDbuf_dir (x : Bytes) : (s.putDbuf x).dir = s.dir := rfl
@[simp] theorem State.putDbuf_chainMode (x : Bytes) : (s.putDbuf x).chainMode = s.chainMode := rfl
@[simp] theorem State.putDbuf_pad (x : Bytes) : (s.putDbuf x).pad = s.pad := rfl
@[simp] theorem State.putDbuf_chain (x : Bytes) : (s.putDbuf x).chain = s.chain := rfl
@[simp] theorem State.putDbuf_buf (x : Bytes) : (s.putDbuf x).buf = s.buf := rfl
@[simp] theorem State.putDbuf_bufLen (x : Bytes) : (s.putDbuf x).bufLen = s.bufLen := rfl
@[simp] theorem State.putDbuf_agenda (x : Bytes) : (s.putDbuf x).agenda = s.agenda := rfl
@[simp] theorem State.putDbuf_resp (x : Bytes) : (s.putDbuf x).resp = s.resp := rfl
@[simp] theorem State.putDbuf_freeCtr (x : Bytes) : (s.putDbuf x).freeCtr = s.freeCtr := rfl

/-! ## putRes -/

@[simp] theorem State.putRes_cfg (a b : Nat) : (s.putRes a b).cfg = s.cfg := rfl
@[simp] theorem State.putRes_engine (a b : Nat) : (s.putRes a b).engine = s.engine := rfl
@[simp] theorem State.putRes_done (a b : Nat) : (s.putRes a b).done = s.done := rfl
@[simp] theorem State.putRes_err (a b : Nat) : (s.putRes a b).err = s.err := rfl
@[simp] theorem State.putRes_errcode (a b : Nat) : (s.putRes a b).errcode = s.errcode := rfl
@[simp] theorem State.putRes_errcmd (a b : Nat) : (s.putRes a b).errcmd = s.errcmd := rfl
@[simp] theorem State.putRes_irqen (a b : Nat) : (s.putRes a b).irqen = s.irqen := rfl
@[simp] theorem State.putRes_arg0 (a b : Nat) : (s.putRes a b).arg0 = s.arg0 := rfl
@[simp] theorem State.putRes_res0 (a b : Nat) : (s.putRes a b).res0 = BitVec.ofNat 32 a := rfl
@[simp] theorem State.putRes_res1 (a b : Nat) : (s.putRes a b).res1 = BitVec.ofNat 32 b := rfl
@[simp] theorem State.putRes_dlen (a b : Nat) : (s.putRes a b).dlen = s.dlen := rfl
@[simp] theorem State.putRes_hlen (a b : Nat) : (s.putRes a b).hlen = s.hlen := rfl
@[simp] theorem State.putRes_oidn (a b : Nat) : (s.putRes a b).oidn = s.oidn := rfl
@[simp] theorem State.putRes_nap (a b : Nat) : (s.putRes a b).nap = s.nap := rfl
@[simp] theorem State.putRes_mem (a b : Nat) : (s.putRes a b).mem = s.mem := rfl
@[simp] theorem State.putRes_oidv (a b : Nat) : (s.putRes a b).oidv = s.oidv := rfl
@[simp] theorem State.putRes_outq (a b : Nat) : (s.putRes a b).outq = s.outq := rfl
@[simp] theorem State.putRes_bn (a b : Nat) : (s.putRes a b).bn = s.bn := rfl
@[simp] theorem State.putRes_w (a b : Nat) : (s.putRes a b).w = s.w := rfl
@[simp] theorem State.putRes_kvalid (a b : Nat) : (s.putRes a b).kvalid = s.kvalid := rfl
@[simp] theorem State.putRes_aesMode (a b : Nat) : (s.putRes a b).aesMode = s.aesMode := rfl
@[simp] theorem State.putRes_phase (a b : Nat) : (s.putRes a b).phase = s.phase := rfl
@[simp] theorem State.putRes_dir (a b : Nat) : (s.putRes a b).dir = s.dir := rfl
@[simp] theorem State.putRes_chainMode (a b : Nat) : (s.putRes a b).chainMode = s.chainMode := rfl
@[simp] theorem State.putRes_pad (a b : Nat) : (s.putRes a b).pad = s.pad := rfl
@[simp] theorem State.putRes_chain (a b : Nat) : (s.putRes a b).chain = s.chain := rfl
@[simp] theorem State.putRes_buf (a b : Nat) : (s.putRes a b).buf = s.buf := rfl
@[simp] theorem State.putRes_bufLen (a b : Nat) : (s.putRes a b).bufLen = s.bufLen := rfl
@[simp] theorem State.putRes_agenda (a b : Nat) : (s.putRes a b).agenda = s.agenda := rfl
@[simp] theorem State.putRes_resp (a b : Nat) : (s.putRes a b).resp = s.resp := rfl
@[simp] theorem State.putRes_freeCtr (a b : Nat) : (s.putRes a b).freeCtr = s.freeCtr := rfl

/-! ## putOid -/

@[simp] theorem State.putOid_cfg (o : List Nat) : (s.putOid o).cfg = s.cfg := rfl
@[simp] theorem State.putOid_engine (o : List Nat) : (s.putOid o).engine = s.engine := rfl
@[simp] theorem State.putOid_done (o : List Nat) : (s.putOid o).done = s.done := rfl
@[simp] theorem State.putOid_err (o : List Nat) : (s.putOid o).err = s.err := rfl
@[simp] theorem State.putOid_errcode (o : List Nat) : (s.putOid o).errcode = s.errcode := rfl
@[simp] theorem State.putOid_errcmd (o : List Nat) : (s.putOid o).errcmd = s.errcmd := rfl
@[simp] theorem State.putOid_irqen (o : List Nat) : (s.putOid o).irqen = s.irqen := rfl
@[simp] theorem State.putOid_arg0 (o : List Nat) : (s.putOid o).arg0 = s.arg0 := rfl
@[simp] theorem State.putOid_res0 (o : List Nat) : (s.putOid o).res0 = s.res0 := rfl
@[simp] theorem State.putOid_res1 (o : List Nat) : (s.putOid o).res1 = s.res1 := rfl
@[simp] theorem State.putOid_dlen (o : List Nat) : (s.putOid o).dlen = s.dlen := rfl
@[simp] theorem State.putOid_hlen (o : List Nat) : (s.putOid o).hlen = s.hlen := rfl
@[simp] theorem State.putOid_oidn (o : List Nat) : (s.putOid o).oidn = BitVec.ofNat 5 o.length := rfl
@[simp] theorem State.putOid_nap (o : List Nat) : (s.putOid o).nap = s.nap := rfl
@[simp] theorem State.putOid_mem (o : List Nat) : (s.putOid o).mem = s.mem := rfl
@[simp] theorem State.putOid_oidv (o : List Nat) : (s.putOid o).oidv = putComponents s.oidv 0 o := rfl
@[simp] theorem State.putOid_outq (o : List Nat) : (s.putOid o).outq = s.outq := rfl
@[simp] theorem State.putOid_bn (o : List Nat) : (s.putOid o).bn = s.bn := rfl
@[simp] theorem State.putOid_w (o : List Nat) : (s.putOid o).w = s.w := rfl
@[simp] theorem State.putOid_kvalid (o : List Nat) : (s.putOid o).kvalid = s.kvalid := rfl
@[simp] theorem State.putOid_aesMode (o : List Nat) : (s.putOid o).aesMode = s.aesMode := rfl
@[simp] theorem State.putOid_phase (o : List Nat) : (s.putOid o).phase = s.phase := rfl
@[simp] theorem State.putOid_dir (o : List Nat) : (s.putOid o).dir = s.dir := rfl
@[simp] theorem State.putOid_chainMode (o : List Nat) : (s.putOid o).chainMode = s.chainMode := rfl
@[simp] theorem State.putOid_pad (o : List Nat) : (s.putOid o).pad = s.pad := rfl
@[simp] theorem State.putOid_chain (o : List Nat) : (s.putOid o).chain = s.chain := rfl
@[simp] theorem State.putOid_buf (o : List Nat) : (s.putOid o).buf = s.buf := rfl
@[simp] theorem State.putOid_bufLen (o : List Nat) : (s.putOid o).bufLen = s.bufLen := rfl
@[simp] theorem State.putOid_agenda (o : List Nat) : (s.putOid o).agenda = s.agenda := rfl
@[simp] theorem State.putOid_resp (o : List Nat) : (s.putOid o).resp = s.resp := rfl
@[simp] theorem State.putOid_freeCtr (o : List Nat) : (s.putOid o).freeCtr = s.freeCtr := rfl

/-! ## emit -/

@[simp] theorem State.emit_cfg (bs : List Block) : (s.emit bs).cfg = s.cfg := rfl
@[simp] theorem State.emit_engine (bs : List Block) : (s.emit bs).engine = s.engine := rfl
@[simp] theorem State.emit_done (bs : List Block) : (s.emit bs).done = s.done := rfl
@[simp] theorem State.emit_err (bs : List Block) : (s.emit bs).err = s.err := rfl
@[simp] theorem State.emit_errcode (bs : List Block) : (s.emit bs).errcode = s.errcode := rfl
@[simp] theorem State.emit_errcmd (bs : List Block) : (s.emit bs).errcmd = s.errcmd := rfl
@[simp] theorem State.emit_irqen (bs : List Block) : (s.emit bs).irqen = s.irqen := rfl
@[simp] theorem State.emit_arg0 (bs : List Block) : (s.emit bs).arg0 = s.arg0 := rfl
@[simp] theorem State.emit_res0 (bs : List Block) : (s.emit bs).res0 = s.res0 := rfl
@[simp] theorem State.emit_res1 (bs : List Block) : (s.emit bs).res1 = s.res1 := rfl
@[simp] theorem State.emit_dlen (bs : List Block) : (s.emit bs).dlen = s.dlen := rfl
@[simp] theorem State.emit_hlen (bs : List Block) : (s.emit bs).hlen = s.hlen := rfl
@[simp] theorem State.emit_oidn (bs : List Block) : (s.emit bs).oidn = s.oidn := rfl
@[simp] theorem State.emit_nap (bs : List Block) : (s.emit bs).nap = s.nap := rfl
@[simp] theorem State.emit_mem (bs : List Block) : (s.emit bs).mem = s.mem := rfl
@[simp] theorem State.emit_oidv (bs : List Block) : (s.emit bs).oidv = s.oidv := rfl
@[simp] theorem State.emit_outq (bs : List Block) :
    (s.emit bs).outq = s.outq ++ (xformAll s.dir s.chainMode s.w s.aesMode.nr s.chain bs).1.map .block := rfl
@[simp] theorem State.emit_bn (bs : List Block) : (s.emit bs).bn = s.bn := rfl
@[simp] theorem State.emit_w (bs : List Block) : (s.emit bs).w = s.w := rfl
@[simp] theorem State.emit_kvalid (bs : List Block) : (s.emit bs).kvalid = s.kvalid := rfl
@[simp] theorem State.emit_aesMode (bs : List Block) : (s.emit bs).aesMode = s.aesMode := rfl
@[simp] theorem State.emit_phase (bs : List Block) : (s.emit bs).phase = s.phase := rfl
@[simp] theorem State.emit_dir (bs : List Block) : (s.emit bs).dir = s.dir := rfl
@[simp] theorem State.emit_chainMode (bs : List Block) : (s.emit bs).chainMode = s.chainMode := rfl
@[simp] theorem State.emit_pad (bs : List Block) : (s.emit bs).pad = s.pad := rfl
@[simp] theorem State.emit_chain (bs : List Block) :
    (s.emit bs).chain = (xformAll s.dir s.chainMode s.w s.aesMode.nr s.chain bs).2 := rfl
@[simp] theorem State.emit_buf (bs : List Block) : (s.emit bs).buf = s.buf := rfl
@[simp] theorem State.emit_bufLen (bs : List Block) : (s.emit bs).bufLen = s.bufLen := rfl
@[simp] theorem State.emit_agenda (bs : List Block) : (s.emit bs).agenda = s.agenda := rfl
@[simp] theorem State.emit_resp (bs : List Block) : (s.emit bs).resp = s.resp := rfl
@[simp] theorem State.emit_freeCtr (bs : List Block) : (s.emit bs).freeCtr = s.freeCtr := rfl

/-! ## absorb -/

@[simp] theorem State.absorb_cfg (x : Bytes) : (s.absorb x).cfg = s.cfg := rfl
@[simp] theorem State.absorb_engine (x : Bytes) : (s.absorb x).engine = s.engine := rfl
@[simp] theorem State.absorb_done (x : Bytes) : (s.absorb x).done = s.done := rfl
@[simp] theorem State.absorb_err (x : Bytes) : (s.absorb x).err = s.err := rfl
@[simp] theorem State.absorb_errcode (x : Bytes) : (s.absorb x).errcode = s.errcode := rfl
@[simp] theorem State.absorb_errcmd (x : Bytes) : (s.absorb x).errcmd = s.errcmd := rfl
@[simp] theorem State.absorb_irqen (x : Bytes) : (s.absorb x).irqen = s.irqen := rfl
@[simp] theorem State.absorb_arg0 (x : Bytes) : (s.absorb x).arg0 = s.arg0 := rfl
@[simp] theorem State.absorb_res0 (x : Bytes) : (s.absorb x).res0 = s.res0 := rfl
@[simp] theorem State.absorb_res1 (x : Bytes) : (s.absorb x).res1 = s.res1 := rfl
@[simp] theorem State.absorb_dlen (x : Bytes) : (s.absorb x).dlen = s.dlen := rfl
@[simp] theorem State.absorb_hlen (x : Bytes) : (s.absorb x).hlen = s.hlen := rfl
@[simp] theorem State.absorb_oidn (x : Bytes) : (s.absorb x).oidn = s.oidn := rfl
@[simp] theorem State.absorb_nap (x : Bytes) : (s.absorb x).nap = s.nap := rfl
@[simp] theorem State.absorb_mem (x : Bytes) : (s.absorb x).mem = s.mem := rfl
@[simp] theorem State.absorb_oidv (x : Bytes) : (s.absorb x).oidv = s.oidv := rfl
@[simp] theorem State.absorb_bn (x : Bytes) : (s.absorb x).bn = s.bn := rfl
@[simp] theorem State.absorb_w (x : Bytes) : (s.absorb x).w = s.w := rfl
@[simp] theorem State.absorb_kvalid (x : Bytes) : (s.absorb x).kvalid = s.kvalid := rfl
@[simp] theorem State.absorb_aesMode (x : Bytes) : (s.absorb x).aesMode = s.aesMode := rfl
@[simp] theorem State.absorb_phase (x : Bytes) : (s.absorb x).phase = s.phase := rfl
@[simp] theorem State.absorb_dir (x : Bytes) : (s.absorb x).dir = s.dir := rfl
@[simp] theorem State.absorb_chainMode (x : Bytes) : (s.absorb x).chainMode = s.chainMode := rfl
@[simp] theorem State.absorb_pad (x : Bytes) : (s.absorb x).pad = s.pad := rfl
@[simp] theorem State.absorb_agenda (x : Bytes) : (s.absorb x).agenda = s.agenda := rfl
@[simp] theorem State.absorb_resp (x : Bytes) : (s.absorb x).resp = s.resp := rfl
@[simp] theorem State.absorb_freeCtr (x : Bytes) : (s.absorb x).freeCtr = s.freeCtr := rfl

/-! ## endSession -/

@[simp] theorem State.endSession_cfg : (s.endSession).cfg = s.cfg := rfl
@[simp] theorem State.endSession_engine : (s.endSession).engine = s.engine := rfl
@[simp] theorem State.endSession_done : (s.endSession).done = s.done := rfl
@[simp] theorem State.endSession_err : (s.endSession).err = s.err := rfl
@[simp] theorem State.endSession_errcode : (s.endSession).errcode = s.errcode := rfl
@[simp] theorem State.endSession_errcmd : (s.endSession).errcmd = s.errcmd := rfl
@[simp] theorem State.endSession_irqen : (s.endSession).irqen = s.irqen := rfl
@[simp] theorem State.endSession_arg0 : (s.endSession).arg0 = s.arg0 := rfl
@[simp] theorem State.endSession_res0 : (s.endSession).res0 = s.res0 := rfl
@[simp] theorem State.endSession_res1 : (s.endSession).res1 = s.res1 := rfl
@[simp] theorem State.endSession_dlen : (s.endSession).dlen = s.dlen := rfl
@[simp] theorem State.endSession_hlen : (s.endSession).hlen = s.hlen := rfl
@[simp] theorem State.endSession_oidn : (s.endSession).oidn = s.oidn := rfl
@[simp] theorem State.endSession_nap : (s.endSession).nap = s.nap := rfl
@[simp] theorem State.endSession_mem : (s.endSession).mem = s.mem := rfl
@[simp] theorem State.endSession_oidv : (s.endSession).oidv = s.oidv := rfl
@[simp] theorem State.endSession_bn : (s.endSession).bn = s.bn := rfl
@[simp] theorem State.endSession_w : (s.endSession).w = s.w := rfl
@[simp] theorem State.endSession_kvalid : (s.endSession).kvalid = s.kvalid := rfl
@[simp] theorem State.endSession_aesMode : (s.endSession).aesMode = s.aesMode := rfl
@[simp] theorem State.endSession_phase : (s.endSession).phase = .finished := rfl
@[simp] theorem State.endSession_dir : (s.endSession).dir = s.dir := rfl
@[simp] theorem State.endSession_chainMode : (s.endSession).chainMode = s.chainMode := rfl
@[simp] theorem State.endSession_pad : (s.endSession).pad = s.pad := rfl
@[simp] theorem State.endSession_buf : (s.endSession).buf = Block.zero := rfl
@[simp] theorem State.endSession_bufLen : (s.endSession).bufLen = 0 := rfl
@[simp] theorem State.endSession_agenda : (s.endSession).agenda = s.agenda := rfl
@[simp] theorem State.endSession_resp : (s.endSession).resp = s.resp := rfl
@[simp] theorem State.endSession_freeCtr : (s.endSession).freeCtr = s.freeCtr := rfl

/-! ## withAccepted -/

@[simp] theorem State.withAccepted_cfg (c : Word) : (s.withAccepted c).cfg = s.cfg := rfl
@[simp] theorem State.withAccepted_engine (c : Word) : (s.withAccepted c).engine = .running c := rfl
@[simp] theorem State.withAccepted_done (c : Word) : (s.withAccepted c).done = false := rfl
@[simp] theorem State.withAccepted_err (c : Word) : (s.withAccepted c).err = s.err := rfl
@[simp] theorem State.withAccepted_errcode (c : Word) : (s.withAccepted c).errcode = s.errcode := rfl
@[simp] theorem State.withAccepted_errcmd (c : Word) : (s.withAccepted c).errcmd = s.errcmd := rfl
@[simp] theorem State.withAccepted_irqen (c : Word) : (s.withAccepted c).irqen = s.irqen := rfl
@[simp] theorem State.withAccepted_arg0 (c : Word) : (s.withAccepted c).arg0 = s.arg0 := rfl
@[simp] theorem State.withAccepted_res0 (c : Word) : (s.withAccepted c).res0 = s.res0 := rfl
@[simp] theorem State.withAccepted_res1 (c : Word) : (s.withAccepted c).res1 = s.res1 := rfl
@[simp] theorem State.withAccepted_dlen (c : Word) : (s.withAccepted c).dlen = s.dlen := rfl
@[simp] theorem State.withAccepted_hlen (c : Word) : (s.withAccepted c).hlen = s.hlen := rfl
@[simp] theorem State.withAccepted_oidn (c : Word) : (s.withAccepted c).oidn = s.oidn := rfl
@[simp] theorem State.withAccepted_nap (c : Word) : (s.withAccepted c).nap = s.nap := rfl
@[simp] theorem State.withAccepted_mem (c : Word) : (s.withAccepted c).mem = s.mem := rfl
@[simp] theorem State.withAccepted_oidv (c : Word) : (s.withAccepted c).oidv = s.oidv := rfl
@[simp] theorem State.withAccepted_outq (c : Word) : (s.withAccepted c).outq = s.outq := rfl
@[simp] theorem State.withAccepted_bn (c : Word) : (s.withAccepted c).bn = s.bn := rfl
@[simp] theorem State.withAccepted_w (c : Word) : (s.withAccepted c).w = s.w := rfl
@[simp] theorem State.withAccepted_kvalid (c : Word) : (s.withAccepted c).kvalid = s.kvalid := rfl
@[simp] theorem State.withAccepted_aesMode (c : Word) : (s.withAccepted c).aesMode = s.aesMode := rfl
@[simp] theorem State.withAccepted_phase (c : Word) : (s.withAccepted c).phase = s.phase := rfl
@[simp] theorem State.withAccepted_dir (c : Word) : (s.withAccepted c).dir = s.dir := rfl
@[simp] theorem State.withAccepted_chainMode (c : Word) : (s.withAccepted c).chainMode = s.chainMode := rfl
@[simp] theorem State.withAccepted_pad (c : Word) : (s.withAccepted c).pad = s.pad := rfl
@[simp] theorem State.withAccepted_chain (c : Word) : (s.withAccepted c).chain = s.chain := rfl
@[simp] theorem State.withAccepted_buf (c : Word) : (s.withAccepted c).buf = s.buf := rfl
@[simp] theorem State.withAccepted_bufLen (c : Word) : (s.withAccepted c).bufLen = s.bufLen := rfl
@[simp] theorem State.withAccepted_agenda (c : Word) : (s.withAccepted c).agenda = .engine :: s.agenda := rfl
@[simp] theorem State.withAccepted_resp (c : Word) : (s.withAccepted c).resp = s.resp := rfl
@[simp] theorem State.withAccepted_freeCtr (c : Word) : (s.withAccepted c).freeCtr = s.freeCtr := rfl

/-! ## clearAll -/

@[simp] theorem State.clearAll_cfg : s.clearAll.cfg = s.cfg := rfl
@[simp] theorem State.clearAll_engine : s.clearAll.engine = (State.resetOf s.cfg).engine := rfl
@[simp] theorem State.clearAll_done : s.clearAll.done = (State.resetOf s.cfg).done := rfl
@[simp] theorem State.clearAll_err : s.clearAll.err = (State.resetOf s.cfg).err := rfl
@[simp] theorem State.clearAll_errcode : s.clearAll.errcode = (State.resetOf s.cfg).errcode := rfl
@[simp] theorem State.clearAll_errcmd : s.clearAll.errcmd = (State.resetOf s.cfg).errcmd := rfl
@[simp] theorem State.clearAll_irqen : s.clearAll.irqen = (State.resetOf s.cfg).irqen := rfl
@[simp] theorem State.clearAll_arg0 : s.clearAll.arg0 = (State.resetOf s.cfg).arg0 := rfl
@[simp] theorem State.clearAll_res0 : s.clearAll.res0 = (State.resetOf s.cfg).res0 := rfl
@[simp] theorem State.clearAll_res1 : s.clearAll.res1 = (State.resetOf s.cfg).res1 := rfl
@[simp] theorem State.clearAll_dlen : s.clearAll.dlen = (State.resetOf s.cfg).dlen := rfl
@[simp] theorem State.clearAll_hlen : s.clearAll.hlen = (State.resetOf s.cfg).hlen := rfl
@[simp] theorem State.clearAll_oidn : s.clearAll.oidn = (State.resetOf s.cfg).oidn := rfl
@[simp] theorem State.clearAll_nap : s.clearAll.nap = (State.resetOf s.cfg).nap := rfl
@[simp] theorem State.clearAll_mem : s.clearAll.mem = (State.resetOf s.cfg).mem := rfl
@[simp] theorem State.clearAll_oidv : s.clearAll.oidv = (State.resetOf s.cfg).oidv := rfl
@[simp] theorem State.clearAll_outq : s.clearAll.outq = (State.resetOf s.cfg).outq := rfl
@[simp] theorem State.clearAll_bn : s.clearAll.bn = (State.resetOf s.cfg).bn := rfl
@[simp] theorem State.clearAll_w : s.clearAll.w = (State.resetOf s.cfg).w := rfl
@[simp] theorem State.clearAll_kvalid : s.clearAll.kvalid = (State.resetOf s.cfg).kvalid := rfl
@[simp] theorem State.clearAll_aesMode : s.clearAll.aesMode = (State.resetOf s.cfg).aesMode := rfl
@[simp] theorem State.clearAll_phase : s.clearAll.phase = (State.resetOf s.cfg).phase := rfl
@[simp] theorem State.clearAll_dir : s.clearAll.dir = (State.resetOf s.cfg).dir := rfl
@[simp] theorem State.clearAll_chainMode : s.clearAll.chainMode = (State.resetOf s.cfg).chainMode := rfl
@[simp] theorem State.clearAll_pad : s.clearAll.pad = (State.resetOf s.cfg).pad := rfl
@[simp] theorem State.clearAll_chain : s.clearAll.chain = (State.resetOf s.cfg).chain := rfl
@[simp] theorem State.clearAll_buf : s.clearAll.buf = (State.resetOf s.cfg).buf := rfl
@[simp] theorem State.clearAll_bufLen : s.clearAll.bufLen = (State.resetOf s.cfg).bufLen := rfl
@[simp] theorem State.clearAll_agenda : s.clearAll.agenda = s.agenda := rfl
@[simp] theorem State.clearAll_resp : s.clearAll.resp = s.resp := rfl
@[simp] theorem State.clearAll_freeCtr : s.clearAll.freeCtr = s.freeCtr := rfl

end Sys2Proof.Machine
end

