-- ==== Sys2Proof/Laws/Memory.lean ====
section
/-! SUPPORT. The laws of the byte windows' memory: read after write, the canonical form, byte strings. -/

namespace Sys2Proof.Machine

open Sys2Proof

@[simp] theorem Memory.read_nil (a : Nat) : Memory.read [] a = 0 := rfl

theorem Memory.read_cons (b : Nat) (u : Byte) (m : Memory) (a : Nat) :
    Memory.read ((b, u) :: m) a = if a = b then u else Memory.read m a := rfl

/-- Below the lowest listed offset every byte is zero. -/
theorem Memory.read_below : ∀ (m : Memory) (lo a : Nat), Memory.wfFrom lo m = true → a < lo → Memory.read m a = 0
  | [], _, _, _, _ => rfl
  | (b, u) :: m, lo, a, h, ha => by
    simp only [Memory.wfFrom, Bool.and_eq_true, decide_eq_true_eq] at h
    rw [Memory.read_cons, if_neg (by omega)]
    exact Memory.read_below m (b + 1) a h.2 (by omega)

theorem Memory.wfFrom_mono : ∀ (m : Memory) (lo lo' : Nat), lo' ≤ lo → Memory.wfFrom lo m = true →
    Memory.wfFrom lo' m = true
  | [], _, _, _, _ => rfl
  | (b, u) :: m, lo, lo', hl, h => by
    simp only [Memory.wfFrom, Bool.and_eq_true, decide_eq_true_eq] at h ⊢
    exact ⟨⟨by omega, h.1.2⟩, h.2⟩

/-- A write keeps the canonical form. -/
theorem Memory.wfFrom_write : ∀ (m : Memory) (lo a : Nat) (v : Byte), lo ≤ a → Memory.wfFrom lo m = true →
    Memory.wfFrom lo (Memory.write m a v) = true
  | [], lo, a, v, hl, _ => by
    simp only [Memory.write]
    split
    · rfl
    · simp_all [Memory.wfFrom]
  | (b, u) :: m, lo, a, v, hl, h => by
    have h' := h
    simp only [Memory.wfFrom, Bool.and_eq_true, decide_eq_true_eq] at h
    simp only [Memory.write]
    split
    · split
      · exact h'
      · simp_all [Memory.wfFrom]
    · split
      · split
        · exact Memory.wfFrom_mono m (b + 1) lo (by omega) h.2
        · simp_all [Memory.wfFrom]
      · simp only [Memory.wfFrom, Bool.and_eq_true, decide_eq_true_eq]
        exact ⟨h.1, Memory.wfFrom_write m (b + 1) a v (by omega) h.2⟩

theorem Memory.wf_write {m : Memory} (a : Nat) (v : Byte) (h : Memory.wf m = true) :
    Memory.wf (Memory.write m a v) = true :=
  Memory.wfFrom_write m 0 a v (Nat.zero_le a) h

theorem Memory.wf_writeBytes : ∀ (x : Bytes) {m : Memory} (a : Nat), Memory.wf m = true →
    Memory.wf (Memory.writeBytes m a x) = true
  | [], _, _, h => h
  | v :: vs, _, a, h => Memory.wf_writeBytes vs (a + 1) (Memory.wf_write a v h)

/-- Reading after a write of one byte, in a canonical memory. -/
theorem Memory.read_writeFrom : ∀ (m : Memory) (lo a b : Nat) (v : Byte), Memory.wfFrom lo m = true →
    Memory.read (Memory.write m a v) b = if b = a then v else Memory.read m b
  | [], lo, a, b, v, _ => by
    simp only [Memory.write]
    split <;> by_cases hb : b = a <;> simp_all [Memory.read]
  | (c, u) :: m, lo, a, b, v, h => by
    have h' := h
    simp only [Memory.wfFrom, Bool.and_eq_true, decide_eq_true_eq] at h
    simp only [Memory.write]
    split
    · rename_i hac
      by_cases hv : v = 0
      · simp only [hv, if_true]
        by_cases hb : b = a
        · subst hb
          rw [if_pos rfl, Memory.read_cons, if_neg (by omega)]
          exact Memory.read_below m (c + 1) b h.2 (by omega)
        · rw [if_neg hb]
      · simp only [hv, if_false, Memory.read_cons]
    · split
      · rename_i hac
        subst hac
        by_cases hv : v = 0
        · simp only [hv, if_true, Memory.read_cons]
          by_cases hb : b = a
          · subst hb
            rw [if_pos rfl]
            exact Memory.read_below m (b + 1) b h.2 (by omega)
          · rw [if_neg hb, if_neg hb]
        · simp only [hv, if_false, Memory.read_cons]
          by_cases hb : b = a <;> simp [hb]
      · rename_i hac1 hac2
        simp only [Memory.read_cons, Memory.read_writeFrom m (c + 1) a b v h.2]
        by_cases hb : b = c <;> by_cases hba : b = a <;> simp_all

theorem Memory.read_write {m : Memory} (h : Memory.wf m = true) (a b : Nat) (v : Byte) :
    Memory.read (Memory.write m a v) b = if b = a then v else Memory.read m b :=
  Memory.read_writeFrom m 0 a b v h

/-- Reading after a write of a byte string. -/
theorem Memory.read_writeBytes : ∀ (x : Bytes) {m : Memory}, Memory.wf m = true → ∀ (a b : Nat),
    Memory.read (Memory.writeBytes m a x) b =
      if a ≤ b ∧ b < a + x.length then x.getD (b - a) 0 else Memory.read m b
  | [], m, _, a, b => by
    rw [if_neg (by simp)]
    rfl
  | v :: vs, m, h, a, b => by
    rw [Memory.writeBytes, Memory.read_writeBytes vs (Memory.wf_write a v h) (a + 1) b, Memory.read_write h]
    by_cases h1 : b = a
    · subst h1
      simp
    · by_cases h2 : a + 1 ≤ b ∧ b < a + 1 + vs.length
      · rw [if_pos h2, if_pos (by simp only [List.length_cons]; omega)]
        obtain ⟨k, rfl⟩ : ∃ k, b = a + 1 + k := ⟨b - (a + 1), by omega⟩
        have e1 : a + 1 + k - (a + 1) = k := by omega
        have e2 : a + 1 + k - a = k + 1 := by omega
        simp [e1, e2]
      · rw [if_neg h2, if_neg h1, if_neg (by simp only [List.length_cons]; omega)]

/-- A write also keeps every byte outside the stored ones in a memory of any form. -/
theorem Memory.read_write_other : ∀ (m : Memory) (a b : Nat) (v : Byte), b ≠ a →
    Memory.read (Memory.write m a v) b = Memory.read m b
  | [], a, b, v, h => by
    simp only [Memory.write]
    split <;> simp [Memory.read, h]
  | (c, u) :: m, a, b, v, h => by
    simp only [Memory.write]
    split
    · split <;> simp [Memory.read_cons, h]
    · split
      · rename_i h2
        subst h2
        split <;> simp [Memory.read_cons, h]
      · simp only [Memory.read_cons, Memory.read_write_other m a b v h]

theorem Memory.read_writeBytes_other : ∀ (x : Bytes) (m : Memory) (a b : Nat), ¬(a ≤ b ∧ b < a + x.length) →
    Memory.read (Memory.writeBytes m a x) b = Memory.read m b
  | [], _, _, _, _ => rfl
  | v :: vs, m, a, b, h => by
    simp only [List.length_cons] at h
    rw [Memory.writeBytes, Memory.read_writeBytes_other vs _ (a + 1) b (by omega),
      Memory.read_write_other m a b v (by omega)]

/-- A write lists no offset but those listed before and the one written. -/
theorem Memory.mem_write : ∀ (m : Memory) (a : Nat) (v : Byte) (c : Host.Cell), c ∈ Memory.write m a v →
    c ∈ m ∨ c.1 = a
  | [], a, v, c, h => by
    simp only [Memory.write] at h
    split at h <;> simp_all
  | (b, u) :: m, a, v, c, h => by
    simp only [Memory.write] at h
    split at h
    · split at h
      · exact .inl h
      · rcases List.mem_cons.1 h with h | h
        · exact .inr (by rw [h])
        · exact .inl h
    · split at h
      · split at h
        · exact .inl (List.mem_cons_of_mem _ h)
        · rcases List.mem_cons.1 h with h | h
          · exact .inr (by rw [h])
          · exact .inl (List.mem_cons_of_mem _ h)
      · rcases List.mem_cons.1 h with h | h
        · exact .inl (by rw [h]; exact List.mem_cons_self)
        · exact (Memory.mem_write m a v c h).imp (List.mem_cons_of_mem _) id

theorem Memory.mem_writeBytes : ∀ (x : Bytes) (m : Memory) (a : Nat) (c : Host.Cell),
    c ∈ Memory.writeBytes m a x → c ∈ m ∨ (a ≤ c.1 ∧ c.1 < a + x.length)
  | [], _, _, _, h => .inl h
  | v :: vs, m, a, c, h => by
    simp only [List.length_cons]
    rcases Memory.mem_writeBytes vs _ (a + 1) c h with h | h
    · rcases Memory.mem_write m a v c h with h | h
      · exact .inl h
      · exact .inr (by omega)
    · exact .inr (by omega)

/-- Equal memories are equal data: two canonical lists that read alike are the same list. -/
theorem Memory.ext_wfFrom : ∀ (m m' : Memory) (lo : Nat), Memory.wfFrom lo m = true → Memory.wfFrom lo m' = true →
    (∀ a, Memory.read m a = Memory.read m' a) → m = m'
  | [], [], _, _, _, _ => rfl
  | [], (b, u) :: m', lo, _, h', e => by
    simp only [Memory.wfFrom, Bool.and_eq_true, bne_iff_ne] at h'
    have := e b
    rw [Memory.read_cons, if_pos rfl] at this
    exact absurd this.symm h'.1.2
  | (b, u) :: m, [], lo, h, _, e => by
    simp only [Memory.wfFrom, Bool.and_eq_true, bne_iff_ne] at h
    have := e b
    rw [Memory.read_cons, if_pos rfl] at this
    exact absurd this h.1.2
  | (b, u) :: m, (b', u') :: m', lo, h, h', e => by
    simp only [Memory.wfFrom, Bool.and_eq_true, bne_iff_ne, decide_eq_true_eq] at h h'
    have hb : b = b' := by
      rcases Nat.lt_trichotomy b b' with hlt | heq | hgt
      · have := e b
        rw [Memory.read_cons, if_pos rfl, Memory.read_cons, if_neg (by omega),
          Memory.read_below m' (b' + 1) b h'.2 (by omega)] at this
        exact absurd this h.1.2
      · exact heq
      · have := e b'
        rw [Memory.read_cons, if_neg (by omega), Memory.read_cons, if_pos rfl,
          Memory.read_below m (b + 1) b' h.2 (by omega)] at this
        exact absurd this.symm h'.1.2
    subst hb
    have hu : u = u' := by
      have := e b
      rwa [Memory.read_cons, Memory.read_cons, if_pos rfl, if_pos rfl] at this
    subst hu
    rw [Memory.ext_wfFrom m m' (b + 1) h.2 h'.2]
    intro a
    by_cases ha : a = b
    · subst ha
      rw [Memory.read_below m (a + 1) a h.2 (by omega), Memory.read_below m' (a + 1) a h'.2 (by omega)]
    · have := e a
      rwa [Memory.read_cons, Memory.read_cons, if_neg ha, if_neg ha] at this

/-! ## Reading byte strings -/

@[simp] theorem Memory.length_readBytes (m : Memory) : ∀ n a, (Memory.readBytes m a n).length = n
  | 0, _ => rfl
  | n + 1, a => by simp [Memory.readBytes, Memory.length_readBytes m n (a + 1)]

theorem Memory.getD_readBytes (m : Memory) : ∀ n a i, i < n →
    (Memory.readBytes m a n).getD i 0 = Memory.read m (a + i)
  | n + 1, a, 0, _ => by simp [Memory.readBytes]
  | n + 1, a, i + 1, h => by
    have := Memory.getD_readBytes m n (a + 1) i (by omega)
    simp only [Memory.readBytes, List.getD_cons_succ, this]
    congr 1
    omega

theorem Memory.readBytes_congr {m m' : Memory} : ∀ n a, (∀ i, i < n → Memory.read m (a + i) = Memory.read m' (a + i)) →
    Memory.readBytes m a n = Memory.readBytes m' a n
  | 0, _, _ => rfl
  | n + 1, a, h => by
    rw [Memory.readBytes, Memory.readBytes, Memory.readBytes_congr n (a + 1),
      show Memory.read m a = Memory.read m' a from h 0 (by omega)]
    intro i hi
    have := h (i + 1) (by omega)
    rwa [show a + (i + 1) = a + 1 + i from by omega] at this

/-- A stored byte string is read back. -/
theorem Memory.readBytes_writeBytes (x : Bytes) {m : Memory} (h : Memory.wf m = true) (a : Nat) :
    Memory.readBytes (Memory.writeBytes m a x) a x.length = x := by
  apply List.ext_getElem (by simp)
  intro i h1 h2
  have := Memory.getD_readBytes (Memory.writeBytes m a x) x.length a i (by simpa using h2)
  rw [Memory.read_writeBytes x h, if_pos (by constructor <;> omega)] at this
  simpa [List.getD_eq_getElem?_getD, h1, h2] using this

end Sys2Proof.Machine
end

