-- ==== Sys2Proof/Laws/Command.lean ====
section
/-! SUPPORT. The life of a command: what `finish` answers, what a bus access and a step can answer, said once. -/

namespace Sys2Proof.Machine

open Sys2Proof

@[simp] theorem finish_ok (i : Instr) (s t : State) : finish i s (.ok t) = .next t.complete := rfl

@[simp] theorem finish_error (i : Instr) (s : State) (x : Exc) :
    finish i s (.error x) = .next (s.raise x (encode i)) := rfl

/-- A command's commit point always answers a next state: its rule's, completed, or the exception's. -/
theorem finish_next {i : Instr} {s t : State} {r : Except Exc State} (h : finish i s r = .next t) :
    (∃ u, r = .ok u ∧ t = u.complete) ∨ (∃ x, r = .error x ∧ t = s.raise x (encode i)) := by
  cases r with
  | ok u => exact .inl ⟨u, rfl, by injection h with h; exact h.symm⟩
  | error x => exact .inr ⟨x, rfl, by injection h with h; exact h.symm⟩

theorem finish_runs (i : Instr) (s : State) (r : Except Exc State) : ∃ t, finish i s r = .next t := by
  cases r <;> exact ⟨_, rfl⟩

/-- The rule of a command: every command is `finish` of one. -/
def ruleOf (i : Instr) (s : State) : Except Exc State :=
  match i with
  | .nop => .ok s
  | .aesKeyexp ks => aesKeyexpRule ks s
  | .aesEncb l => blockRule cipher l s
  | .aesDecb l => blockRule invCipher l s
  | .sesInit dir chain pad => sesInitRule dir chain pad s
  | .sesUpdate l => sesUpdateRule l s
  | .sesFinal l => sesFinalRule l s
  | .gfMul l => gfMulRule l s
  | .stSubbytes l => stRule subBytes l s
  | .stInvsubbytes l => stRule invSubBytes l s
  | .stShiftrows l => stRule shiftRows l s
  | .stInvshiftrows l => stRule invShiftRows l s
  | .stMixcolumns l => stRule mixColumns l s
  | .stInvmixcolumns l => stRule invMixColumns l s
  | .stAddroundkey round l => stAddroundkeyRule round l s
  | .bnLd reg l => bnLdRule reg l s
  | .bnSt reg l => bnStRule reg l s
  | .rsaSp1 form => rsaSp1Rule form s
  | .rsaVp1 => rsaVp1Rule s
  | .emsaEnc alg l => emsaEncRule alg l s
  | .pkcsSign alg form => pkcsSignRule alg form s
  | .pkcsVerify alg l => pkcsVerifyRule alg l s
  | .derLenenc => derLenencRule s
  | .derLendec l => derLendecRule l s
  | .oidEnc => oidEncRule s
  | .oidDec l => oidDecRule l s
  | .algidEnc alg => algidEncRule alg s
  | .oidLdalg alg => oidLdalgRule alg s

theorem exec_eq (i : Instr) (s : State) : exec i s = finish i s (ruleOf i s) := by
  cases i <;> rfl

/-! ## The rules, said once: what they need and what they leave -/

theorem map_ok {α β : Type} {r : Except Exc α} {f : α → β} {b : β} (h : r.map f = .ok b) :
    ∃ a, r = .ok a ∧ b = f a := by
  cases r with
  | ok a => exact ⟨a, rfl, (Except.ok.inj h).symm⟩
  | error x => cases h

/-- A check in front of a rule: the rule succeeds when the check does not hold and the rest succeeds. -/
theorem check_ok {α : Type} {c : Prop} [Decidable c] {x : Exc} {r : Except Exc α} {a : α} :
    (if c then .error x else r) = .ok a ↔ ¬c ∧ r = .ok a := by
  by_cases hc : c <;> simp [hc]

theorem gfMulRule_ok {l : BitVec 16} {s t : State} (h : gfMulRule l s = .ok t) :
    l = 2 ∧ t = s.putDbuf [gfmul (Memory.read s.mem dbufBase) (Memory.read s.mem (dbufBase + 1))] := by
  simp only [gfMulRule, check_ok, Except.ok.injEq, not_not] at h
  exact ⟨h.1, h.2.symm⟩

theorem stRule_ok {f : Block → Block} {l : BitVec 16} {s t : State} (h : stRule f l s = .ok t) :
    l = 16 ∧ t = s.putDbuf (blockBytes (f s.dbufBlock)) := by
  simp only [stRule, check_ok, Except.ok.injEq, not_not] at h
  exact ⟨h.1, h.2.symm⟩

theorem stAddroundkeyRule_ok {round : BitVec 4} {l : BitVec 16} {s t : State}
    (h : stAddroundkeyRule round l s = .ok t) :
    l = 16 ∧ s.kvalid = true ∧ round.toNat ≤ s.aesMode.nr ∧
      t = s.putDbuf (blockBytes (addRoundKey s.dbufBlock s.w round.toNat)) := by
  simp only [stAddroundkeyRule, check_ok, not_not, Bool.not_eq_false, gt_iff_lt, Nat.not_lt] at h
  obtain ⟨hl, hk, hr, h⟩ := h
  exact ⟨hl, hk, hr, (stRule_ok h).2⟩

theorem blockRule_ok {f : Block → Vector Quad 60 → Nat → Block} {l : BitVec 16} {s t : State}
    (h : blockRule f l s = .ok t) :
    l = 16 ∧ s.kvalid = true ∧ t = s.putDbuf (blockBytes (f s.dbufBlock s.w s.aesMode.nr)) := by
  simp only [blockRule, check_ok, Except.ok.injEq, not_not, Bool.not_eq_false] at h
  exact ⟨h.1, h.2.1, h.2.2.symm⟩

theorem aesKeyexpRule_ok {ks : BitVec 2} {s t : State} (h : aesKeyexpRule ks s = .ok t) :
    ∃ m, aesModeOf ks = some m ∧ s.phase ≠ .active ∧
      t = { s with
        w := scheduleOf (keyExpansion ((List.range m.nk).map s.keyWord) m.nk m.nr)
        aesMode := m
        kvalid := true } := by
  unfold aesKeyexpRule at h
  cases hm : aesModeOf ks with
  | none => simp [hm] at h
  | some m =>
    simp only [hm, check_ok] at h
    exact ⟨m, rfl, h.1, (Except.ok.inj h.2).symm⟩

theorem sesInitRule_ok {dir : Dir} {chain : ChainMode} {pad : BitVec 2} {s t : State}
    (h : sesInitRule dir chain pad s = .ok t) :
    ∃ p, padOf pad = some p ∧ s.kvalid = true ∧
      t = { s with
        dir := dir
        chainMode := chain
        pad := p
        chain := s.ivBlock
        buf := Block.zero
        bufLen := 0
        outq := []
        phase := .active } := by
  unfold sesInitRule at h
  cases hp : padOf pad with
  | none => simp [hp] at h
  | some p =>
    simp only [hp, check_ok, Bool.not_eq_false] at h
    exact ⟨p, rfl, h.1, (Except.ok.inj h.2).symm⟩

theorem sesUpdateRule_ok {l : BitVec 16} {s t : State} (h : sesUpdateRule l s = .ok t) :
    s.phase = .active ∧ l.toNat ≤ s.cfg.dbufSize ∧
      s.outq.length + (s.bufLen.toNat + l.toNat) / 16 ≤ s.cfg.outqDepth ∧ t = s.absorb (s.dbuf l.toNat) := by
  simp only [sesUpdateRule, check_ok, ne_eq, not_not, gt_iff_lt, Nat.not_lt] at h
  exact ⟨h.1, h.2.1, h.2.2.1, (Except.ok.inj h.2.2.2).symm⟩

theorem sesFinalRule_ok {l : BitVec 16} {s t : State} (h : sesFinalRule l s = .ok t) :
    s.phase = .active ∧ l.toNat ≤ s.cfg.dbufSize ∧
      ¬(s.pad = .none ∧ (s.bufLen.toNat + l.toNat) % 16 ≠ 0) ∧
      s.outq.length + (s.bufLen.toNat + l.toNat) / 16 + padCount s.pad ((s.bufLen.toNat + l.toNat) % 16) + 1
        ≤ s.cfg.outqDepth ∧
      t = (s.absorb (s.dbuf l.toNat)).endSession := by
  simp only [sesFinalRule, check_ok, gt_iff_lt, Nat.not_lt] at h
  obtain ⟨hp, hl, hn, hq, h⟩ := h
  exact ⟨not_not.1 hp, hl, hn, hq, (Except.ok.inj h).symm⟩

theorem bnLdRule_ok {reg : BitVec 6} {l : BitVec 16} {s t : State} (h : bnLdRule reg l s = .ok t) :
    bnRegExists s.cfg reg = true ∧ l.toNat ≤ s.cfg.kmax ∧ t = s.putBn reg (os2ip (s.dbuf l.toNat)) := by
  simp only [bnLdRule, check_ok, Bool.not_eq_false, gt_iff_lt, Nat.not_lt] at h
  exact ⟨h.1, h.2.1, (Except.ok.inj h.2.2).symm⟩

theorem i2osp_ok {v l : Nat} {x : Bytes} (h : i2osp v l = .ok x) : v < 256 ^ l ∧ x = bigEndian v l := by
  simp only [i2osp, check_ok, ge_iff_le, Nat.not_le] at h
  exact ⟨h.1, (Except.ok.inj h.2).symm⟩

theorem bnStRule_ok {reg : BitVec 6} {l : BitVec 16} {s t : State} (h : bnStRule reg l s = .ok t) :
    bnRegStorable reg = true ∧ l.toNat ≤ s.cfg.dbufSize ∧ s.bnValid reg = true ∧ s.bnVal reg < 256 ^ l.toNat ∧
      t = s.putDbuf (bigEndian (s.bnVal reg) l.toNat) := by
  simp only [bnStRule, check_ok, Bool.not_eq_false, gt_iff_lt, Nat.not_lt] at h
  obtain ⟨hr, hl, hv, h⟩ := h
  obtain ⟨x, hx, rfl⟩ := map_ok h
  obtain ⟨hb, rfl⟩ := i2osp_ok hx
  exact ⟨hr, hl, hv, hb, rfl⟩

theorem rsaSp1Rule_ok {form : KeyForm} {s t : State} (h : rsaSp1Rule form s = .ok t) :
    ∃ v, s.keycheck form = false ∧ s.bnValid regM = true ∧ s.rsasp1 form (s.bnVal regM) = .ok v ∧
      ¬(form = .multiPrime ∧ v ≥ 2 ^ (8 * s.cfg.kmax)) ∧ t = s.putBn regS v := by
  simp only [rsaSp1Rule, check_ok, Bool.or_eq_true, Bool.not_eq_true', not_or, Bool.not_eq_true,
    Bool.not_eq_false] at h
  obtain ⟨⟨hk, hm⟩, h⟩ := h
  cases hv : s.rsasp1 form (s.bnVal regM) with
  | error x => simp [hv] at h
  | ok v =>
    simp only [hv, check_ok] at h
    exact ⟨v, hk, hm, rfl, h.1, (Except.ok.inj h.2).symm⟩

theorem rsaVp1Rule_ok {s t : State} (h : rsaVp1Rule s = .ok t) :
    s.keycheckPub = false ∧ s.bnValid regS = true ∧ s.bnVal regS < s.bnVal regN ∧
      t = s.putBn regM (modexp (s.bnVal regS) (s.bnVal regE) (s.bnVal regN)) := by
  simp only [rsaVp1Rule, check_ok, Bool.or_eq_true, Bool.not_eq_true', not_or, Bool.not_eq_true,
    Bool.not_eq_false] at h
  obtain ⟨⟨hk, hs⟩, h⟩ := h
  obtain ⟨v, hv, rfl⟩ := map_ok h
  simp only [rsavp1, check_ok, ge_iff_le, Nat.not_le] at hv
  exact ⟨hk, hs, hv.1, by rw [Except.ok.inj hv.2]⟩

theorem emsaEncRule_ok {alg : BitVec 4} {l : BitVec 16} {s t : State} (h : emsaEncRule alg l s = .ok t) :
    ∃ row em, algOf alg = some row ∧ l.toNat ≤ s.cfg.dbufSize ∧ s.hlen.toNat ≤ row.hLen ∧
      emsa s.cfg.emsaTForm row (s.hbuf s.hlen.toNat) l.toNat = .ok em ∧ t = s.putDbuf em := by
  unfold emsaEncRule at h
  cases hrow : algOf alg with
  | none => simp [hrow] at h
  | some row =>
    simp only [hrow, check_ok, gt_iff_lt, Nat.not_lt] at h
    obtain ⟨hl, hh, h⟩ := h
    obtain ⟨em, hem, rfl⟩ := map_ok h
    exact ⟨row, em, rfl, hl, hh, hem, rfl⟩

theorem pkcsSignRule_ok {alg : BitVec 4} {form : KeyForm} {s t : State} (h : pkcsSignRule alg form s = .ok t) :
    ∃ row em v, algOf alg = some row ∧ s.keycheck form = false ∧ s.hlen.toNat ≤ row.hLen ∧
      emsa s.cfg.emsaTForm row (s.hbuf s.hlen.toNat) (bytelen (s.bnVal regN)) = .ok em ∧
      s.rsasp1 form (os2ip em) = .ok v ∧ v < 256 ^ bytelen (s.bnVal regN) ∧
      t = s.putDbuf (bigEndian v (bytelen (s.bnVal regN))) := by
  unfold pkcsSignRule at h
  cases hrow : algOf alg with
  | none => simp [hrow] at h
  | some row =>
    simp only [hrow, check_ok, Bool.not_eq_true, gt_iff_lt, Nat.not_lt] at h
    obtain ⟨hk, hh, h⟩ := h
    cases hem : emsa s.cfg.emsaTForm row (s.hbuf s.hlen.toNat) (bytelen (s.bnVal regN)) with
    | error x => simp [hem] at h
    | ok em =>
      cases hv : s.rsasp1 form (os2ip em) with
      | error x => simp [hem, hv] at h
      | ok v =>
        simp only [hem, hv, check_ok, ge_iff_le, Nat.not_le] at h
        exact ⟨row, em, v, rfl, hk, hh, hem, hv, h.1, (Except.ok.inj h.2).symm⟩

theorem pkcsVerifyRule_ok {alg : BitVec 4} {l : BitVec 16} {s t : State} (h : pkcsVerifyRule alg l s = .ok t) :
    ∃ row, algOf alg = some row ∧ l.toNat ≤ s.cfg.dbufSize ∧ s.keycheckPub = false ∧
      t = s.putRes (if s.verifies row l.toNat then 1 else 0) 0 := by
  unfold pkcsVerifyRule at h
  cases hrow : algOf alg with
  | none => simp [hrow] at h
  | some row =>
    simp only [hrow, check_ok, gt_iff_lt, Nat.not_lt, Bool.not_eq_true] at h
    exact ⟨row, rfl, h.1, h.2.1, (Except.ok.inj h.2.2).symm⟩

theorem derLenencRule_ok {s t : State} (h : derLenencRule s = .ok t) :
    s.arg0.toNat < 2 ^ 31 ∧ t = s.putDbuf (derlen s.arg0.toNat) := by
  simp only [derLenencRule, check_ok, ge_iff_le, Nat.not_le] at h
  exact ⟨h.1, (Except.ok.inj h.2).symm⟩

theorem derLendecRule_ok {l : BitVec 16} {s t : State} (h : derLendecRule l s = .ok t) :
    ∃ v c, l.toNat ≤ s.cfg.dbufSize ∧ derlenDec (s.dbuf l.toNat) = .ok (v, c) ∧ t = s.putRes v c := by
  simp only [derLendecRule, check_ok, gt_iff_lt, Nat.not_lt] at h
  obtain ⟨r, hr, rfl⟩ := map_ok h.2
  exact ⟨r.1, r.2, h.1, hr, rfl⟩

theorem oidEncRule_ok {s t : State} (h : oidEncRule s = .ok t) :
    ∃ e, oidEnc s.components = .ok e ∧ t = s.putDbuf e := by
  obtain ⟨e, he, rfl⟩ := map_ok h
  exact ⟨e, he, rfl⟩

theorem oidDecRule_ok {l : BitVec 16} {s t : State} (h : oidDecRule l s = .ok t) :
    ∃ o c, l.toNat ≤ s.cfg.dbufSize ∧ oidDec (s.dbuf l.toNat) = .ok (o, c) ∧
      t = (s.putOid o).putRes o.length c := by
  simp only [oidDecRule, check_ok, gt_iff_lt, Nat.not_lt] at h
  obtain ⟨r, hr, rfl⟩ := map_ok h.2
  exact ⟨r.1, r.2, h.1, hr, rfl⟩

theorem algidEncRule_ok {alg : BitVec 4} {s t : State} (h : algidEncRule alg s = .ok t) :
    ∃ row e, algOf alg = some row ∧ algidEnc row = .ok e ∧ t = s.putDbuf e := by
  unfold algidEncRule at h
  cases hrow : algOf alg with
  | none => simp [hrow] at h
  | some row =>
    simp only [hrow] at h
    obtain ⟨e, he, rfl⟩ := map_ok h
    exact ⟨row, e, rfl, he, rfl⟩

theorem oidLdalgRule_ok {alg : BitVec 4} {s t : State} (h : oidLdalgRule alg s = .ok t) :
    ∃ row, algOf alg = some row ∧ t = (s.putOid row.oid).putRes row.hLen 0 := by
  unfold oidLdalgRule at h
  cases hrow : algOf alg with
  | none => simp [hrow] at h
  | some row =>
    simp only [hrow] at h
    exact ⟨row, rfl, (Except.ok.inj h).symm⟩

/-! ## What no command touches -/

/-- What no command's rule touches: parameters, error record, HOST-owned registers and the model's own fields. -/
structure RuleKeeps (s t : State) : Prop where
  cfg : t.cfg = s.cfg
  engine : t.engine = s.engine
  done : t.done = s.done
  err : t.err = s.err
  errcode : t.errcode = s.errcode
  errcmd : t.errcmd = s.errcmd
  irqen : t.irqen = s.irqen
  arg0 : t.arg0 = s.arg0
  hlen : t.hlen = s.hlen
  nap : t.nap = s.nap
  agenda : t.agenda = s.agenda
  resp : t.resp = s.resp
  freeCtr : t.freeCtr = s.freeCtr

theorem RuleKeeps.refl (s : State) : RuleKeeps s s := by constructor <;> rfl
theorem RuleKeeps.putDbuf (s : State) (x : Bytes) : RuleKeeps s (s.putDbuf x) := by constructor <;> rfl
theorem RuleKeeps.putBn (s : State) (r : BitVec 6) (v : Nat) : RuleKeeps s (s.putBn r v) := by constructor <;> rfl
theorem RuleKeeps.putRes (s : State) (a b : Nat) : RuleKeeps s (s.putRes a b) := by constructor <;> rfl
theorem RuleKeeps.putOidRes (s : State) (o : List Nat) (a b : Nat) : RuleKeeps s ((s.putOid o).putRes a b) := by
  constructor <;> rfl

theorem ruleOf_keeps {i : Instr} {s t : State} (h : ruleOf i s = .ok t) : RuleKeeps s t := by
  cases i with
  | nop => injection h with h; exact h ▸ RuleKeeps.refl s
  | aesKeyexp ks => obtain ⟨m, -, -, rfl⟩ := aesKeyexpRule_ok h; constructor <;> rfl
  | aesEncb l => obtain ⟨-, -, rfl⟩ := blockRule_ok h; exact .putDbuf ..
  | aesDecb l => obtain ⟨-, -, rfl⟩ := blockRule_ok h; exact .putDbuf ..
  | sesInit d c p => obtain ⟨m, -, -, rfl⟩ := sesInitRule_ok h; constructor <;> rfl
  | sesUpdate l => obtain ⟨-, -, -, rfl⟩ := sesUpdateRule_ok h; constructor <;> rfl
  | sesFinal l => obtain ⟨-, -, -, -, rfl⟩ := sesFinalRule_ok h; constructor <;> rfl
  | gfMul l => obtain ⟨-, rfl⟩ := gfMulRule_ok h; exact .putDbuf ..
  | stSubbytes l => obtain ⟨-, rfl⟩ := stRule_ok h; exact .putDbuf ..
  | stInvsubbytes l => obtain ⟨-, rfl⟩ := stRule_ok h; exact .putDbuf ..
  | stShiftrows l => obtain ⟨-, rfl⟩ := stRule_ok h; exact .putDbuf ..
  | stInvshiftrows l => obtain ⟨-, rfl⟩ := stRule_ok h; exact .putDbuf ..
  | stMixcolumns l => obtain ⟨-, rfl⟩ := stRule_ok h; exact .putDbuf ..
  | stInvmixcolumns l => obtain ⟨-, rfl⟩ := stRule_ok h; exact .putDbuf ..
  | stAddroundkey r l => obtain ⟨-, -, -, rfl⟩ := stAddroundkeyRule_ok h; exact .putDbuf ..
  | bnLd r l => obtain ⟨-, -, rfl⟩ := bnLdRule_ok h; exact .putBn ..
  | bnSt r l => obtain ⟨-, -, -, -, rfl⟩ := bnStRule_ok h; exact .putDbuf ..
  | rsaSp1 f => obtain ⟨v, -, -, -, -, rfl⟩ := rsaSp1Rule_ok h; exact .putBn ..
  | rsaVp1 => obtain ⟨-, -, -, rfl⟩ := rsaVp1Rule_ok h; exact .putBn ..
  | emsaEnc a l => obtain ⟨_, _, -, -, -, -, rfl⟩ := emsaEncRule_ok h; exact .putDbuf ..
  | pkcsSign a f => obtain ⟨_, _, _, -, -, -, -, -, -, rfl⟩ := pkcsSignRule_ok h; exact .putDbuf ..
  | pkcsVerify a l => obtain ⟨_, -, -, -, rfl⟩ := pkcsVerifyRule_ok h; exact .putRes ..
  | derLenenc => obtain ⟨-, rfl⟩ := derLenencRule_ok h; exact .putDbuf ..
  | derLendec l => obtain ⟨_, _, -, -, rfl⟩ := derLendecRule_ok h; exact .putRes ..
  | oidEnc => obtain ⟨_, -, rfl⟩ := oidEncRule_ok h; exact .putDbuf ..
  | oidDec l => obtain ⟨_, _, -, -, rfl⟩ := oidDecRule_ok h; exact .putOidRes ..
  | algidEnc a => obtain ⟨_, _, -, -, rfl⟩ := algidEncRule_ok h; exact .putDbuf ..
  | oidLdalg a => obtain ⟨_, -, rfl⟩ := oidLdalgRule_ok h; exact .putOidRes ..

/-- Every command answers a next state with the ENGINE idle. -/
theorem exec_next (i : Instr) (s : State) :
    ∃ t, exec i s = .next t ∧ t.engine = .idle ∧ t.cfg = s.cfg ∧ t.agenda = s.agenda := by
  rw [exec_eq]
  cases h : ruleOf i s with
  | ok u => exact ⟨u.complete, rfl, rfl, (ruleOf_keeps h).cfg, (ruleOf_keeps h).agenda⟩
  | error x => exact ⟨_, rfl, rfl, rfl, rfl⟩

/-! ## The step, said once -/

/-- The ENGINE at its commit point: the decoded command's rule, or IllegalCommand. -/
theorem commit_cases (c : Word) (s : State) :
    (∃ i, decode s.cfg c = .ok i ∧ commit c s = exec i s) ∨
    (∃ r, decode s.cfg c = .error r ∧ commit c s = .next (s.raise .illegalCommand c)) := by
  unfold commit
  cases h : decode s.cfg c with
  | ok i => exact .inl ⟨i, rfl, rfl⟩
  | error r => exact .inr ⟨r, rfl, rfl⟩

/-- So does every commit point. -/
theorem commit_next (c : Word) (s : State) :
    ∃ t, commit c s = .next t ∧ t.engine = .idle ∧ t.cfg = s.cfg ∧ t.agenda = s.agenda := by
  rcases commit_cases c s with ⟨i, -, h⟩ | ⟨r, -, h⟩
  · rw [h]; exact exec_next i s
  · exact ⟨_, h, rfl, rfl, rfl⟩
/-- Everything one step can be: nothing at an idle machine, the ENGINE's commit point (with the event that named
it gone, or with a held access or an empty agenda left as it is), a reset, a HOST access, or a `STATUS` read
answered while busy. -/
theorem step_cases {s t : State} (h : step s = .next t) :
    (s.engine = .idle ∧ s.agenda = [] ∧ t = s) ∨
    (∃ es, s.engine = .idle ∧ s.agenda = .engine :: es ∧ t = s.withAgenda es) ∨
    (∃ c es, s.engine = .running c ∧ commit c (s.withAgenda es) = .next t ∧
      (s.agenda = .engine :: es ∨ s.agenda = es)) ∨
    (∃ es, s.agenda = .reset :: es ∧ t = (s.withAgenda es).clearAll) ∨
    (∃ a es, s.engine = .idle ∧ s.agenda = .host a :: es ∧ t = (s.withAgenda es).hostAccess a) ∨
    (∃ c a es, s.engine = .running c ∧ s.agenda = .host a :: es ∧ a.answeredWhileBusy s.cfg = true ∧
      t = (s.withAgenda es).answerBusy a) := by
  have self : s.withAgenda s.agenda = s := rfl
  unfold step moveOn at h
  split at h
  · rename_i ha
    unfold engineMoment at h
    split at h
    · rename_i he
      injection h with h
      exact .inl ⟨he, ha, h.symm⟩
    · rename_i c he
      refine .inr (.inr (.inl ⟨c, [], he, ?_, .inr ha⟩))
      rwa [← ha, self]
  · rename_i es ha
    injection h with h
    exact .inr (.inr (.inr (.inl ⟨es, ha, h.symm⟩)))
  · rename_i es ha
    unfold engineMoment at h
    simp only [State.withAgenda_engine] at h
    split at h
    · rename_i he
      injection h with h
      exact .inr (.inl ⟨es, he, ha, h.symm⟩)
    · rename_i c he
      exact .inr (.inr (.inl ⟨c, es, he, h, .inl ha⟩))
  · rename_i a es ha
    split at h
    · rename_i he
      injection h with h
      exact .inr (.inr (.inr (.inr (.inl ⟨a, es, he, ha, h.symm⟩))))
    · rename_i c he
      split at h
      · rename_i hb
        injection h with h
        exact .inr (.inr (.inr (.inr (.inr ⟨c, a, es, he, ha, hb, h.symm⟩))))
      · refine .inr (.inr (.inl ⟨c, s.agenda, he, ?_, .inr rfl⟩))
        rwa [self]

end Sys2Proof.Machine
end

