-- ==== Sys2Proof/Laws/Gf.lean ====
section
/-! SUPPORT. The laws of bytes, columns and blocks: the field product is additive on both sides, the substitution
tables are inverse, blocks and their sixteen bytes are the same thing, XOR of blocks (40_gf_state.md). -/

namespace Sys2Proof.Machine

open Sys2Proof

/-! ## XOR and shifts of bytes -/

theorem xor_shiftLeft_one (a b : Byte) : (a ^^^ b) <<< 1 = a <<< 1 ^^^ b <<< 1 := BitVec.shiftLeft_xor_distrib a b 1

theorem xor_shiftRight_one (a b : Byte) : (a ^^^ b) >>> 1 = a >>> 1 ^^^ b >>> 1 := BitVec.ushiftRight_xor_distrib a b 1

theorem xor_xor_cancel (a b : Byte) : a ^^^ b ^^^ b = a := by
  rw [BitVec.xor_assoc, BitVec.xor_self, BitVec.xor_zero]

theorem xor_xor_xor_comm (a b c d : Byte) : a ^^^ b ^^^ (c ^^^ d) = a ^^^ c ^^^ (b ^^^ d) := by
  rw [BitVec.xor_assoc, BitVec.xor_assoc, ← BitVec.xor_assoc b, ← BitVec.xor_assoc c, BitVec.xor_comm b c]

/-! ## The field product -/

/-- The running value of `a` in R131's loop is additive. -/
theorem doubling_xor (a b : Byte) :
    (if (a ^^^ b).getLsbD 7 then ((a ^^^ b) <<< 1) ^^^ 0x1B#8 else (a ^^^ b) <<< 1) =
      (if a.getLsbD 7 then (a <<< 1) ^^^ 0x1B#8 else a <<< 1) ^^^
        (if b.getLsbD 7 then (b <<< 1) ^^^ 0x1B#8 else b <<< 1) := by
  rw [BitVec.getLsbD_xor, xor_shiftLeft_one]
  generalize a <<< 1 = x
  generalize b <<< 1 = y
  cases a.getLsbD 7 <;> cases b.getLsbD 7 <;> simp
  · exact BitVec.xor_assoc x y _
  · rw [BitVec.xor_assoc, BitVec.xor_assoc, BitVec.xor_comm y]
  · rw [xor_xor_xor_comm, BitVec.xor_self, BitVec.xor_zero]

theorem gfmulLoop_xor_left : ∀ (k : Nat) (a a' b p p' : Byte),
    gfmulLoop k (a ^^^ a') b (p ^^^ p') = gfmulLoop k a b p ^^^ gfmulLoop k a' b p'
  | 0, _, _, _, _, _ => rfl
  | k + 1, a, a', b, p, p' => by
    simp only [gfmulLoop]
    rw [doubling_xor, ← gfmulLoop_xor_left k]
    congr 1
    split
    · exact xor_xor_xor_comm p p' a a'
    · rfl

theorem gfmulLoop_xor_right : ∀ (k : Nat) (a b b' p p' : Byte),
    gfmulLoop k a (b ^^^ b') (p ^^^ p') = gfmulLoop k a b p ^^^ gfmulLoop k a b' p'
  | 0, _, _, _, _, _ => rfl
  | k + 1, a, b, b', p, p' => by
    simp only [gfmulLoop]
    rw [xor_shiftRight_one, ← gfmulLoop_xor_right k]
    congr 1
    have e : (b ^^^ b').getLsbD 0 = ((b.getLsbD 0) ^^ (b'.getLsbD 0)) := by simp
    rw [e]
    cases b.getLsbD 0 <;> cases b'.getLsbD 0 <;> simp
    · exact (BitVec.xor_assoc p p' a)
    · rw [BitVec.xor_assoc, BitVec.xor_comm p' a, ← BitVec.xor_assoc]
    · rw [xor_xor_xor_comm, BitVec.xor_self, BitVec.xor_zero]

/-- The product is additive in its first factor. -/
theorem gfmul_xor_left (a a' b : Byte) : gfmul (a ^^^ a') b = gfmul a b ^^^ gfmul a' b :=
  gfmulLoop_xor_left 8 a a' b 0 0

/-- The product is additive in its second factor. -/
theorem gfmul_xor_right (a b b' : Byte) : gfmul a (b ^^^ b') = gfmul a b ^^^ gfmul a b' :=
  gfmulLoop_xor_right 8 a b b' 0 0

@[simp] theorem gfmul_one (a : Byte) : gfmul 1#8 a = a := by
  revert a; decide +kernel

/-! ## The substitution tables -/

theorem invSbox_sbox (x : Byte) : invSbox (sbox x) = x := by
  revert x; decide +kernel

theorem sbox_invSbox (x : Byte) : sbox (invSbox x) = x := by
  revert x; decide +kernel

/-! ## Blocks and their bytes -/

@[simp] theorem length_blockBytes (b : Block) : (blockBytes b).length = 16 := rfl

@[simp] theorem blockOfBytes_blockBytes (b : Block) : blockOfBytes (blockBytes b) = b := rfl

theorem blockByte_blockOfFn (f : Nat → Byte) : ∀ i, i < 16 → blockByte (blockOfFn f) i = f i := by
  intro i hi
  interval_cases i <;> rfl

theorem blockOfFn_congr {f g : Nat → Byte} (h : ∀ i, i < 16 → f i = g i) : blockOfFn f = blockOfFn g := by
  simp [blockOfFn, h]

theorem blockOfFn_blockByte (b : Block) : blockOfFn (blockByte b) = b := rfl

/-- Blocks with the same sixteen bytes are the same block. -/
theorem block_ext {b b' : Block} (h : ∀ i, i < 16 → blockByte b i = blockByte b' i) : b = b' := by
  rw [← blockOfFn_blockByte b, ← blockOfFn_blockByte b']
  exact blockOfFn_congr h

theorem blockBytes_blockOfBytes {x : Bytes} (h : x.length = 16) : blockBytes (blockOfBytes x) = x := by
  apply List.ext_getElem (by simp [h])
  intro i h1 h2
  have : blockByte (blockOfBytes x) i = x.getD i 0 := blockByte_blockOfFn _ i (by simpa using h1)
  rw [blockByte, List.getD_eq_getElem?_getD, List.getD_eq_getElem?_getD, List.getElem?_eq_getElem h2,
    List.getElem?_eq_getElem (show i < (blockBytes _).length from h1)] at this
  exact this

/-! ## XOR of blocks -/

theorem xorQuad_cancel (p q : Quad) : xorQuad (xorQuad p q) q = p := by
  simp [xorQuad]

theorem xorBlock_cancel (s t : Block) : xorBlock (xorBlock s t) t = s := by
  simp [xorBlock, xorQuad_cancel]

/-- `AddRoundKey` is its own inverse (R144). -/
theorem addRoundKey_cancel (s : Block) (w : Vector Quad 60) (r : Nat) :
    addRoundKey (addRoundKey s w r) w r = s := xorBlock_cancel s _

theorem shiftRows_subBytes (s : Block) : shiftRows (subBytes s) = subBytes (shiftRows s) := rfl

end Sys2Proof.Machine
end

