-- ==== Sys2Proof/Laws/Aes.lean ====
section
/-! SUPPORT. The laws of key expansion (41_key_expansion.md R174): the loop keeps the words it has and appends, at each
index, the recurrence of the words before it. -/

namespace Sys2Proof.Machine

open Sys2Proof

theorem length_expandWords (nk : Nat) : ∀ (n : Nat) (ws : List Quad),
    (expandWords nk n ws).length = ws.length + n
  | 0, _ => rfl
  | n + 1, ws => by
    rw [expandWords, length_expandWords nk n]
    simp
    omega

/-- The words so far stay. -/
theorem getD_expandWords_old (nk : Nat) : ∀ (n : Nat) (ws : List Quad) (i : Nat), i < ws.length →
    (expandWords nk n ws).getD i Quad.zero = ws.getD i Quad.zero
  | 0, _, _, _ => rfl
  | n + 1, ws, i, h => by
    rw [expandWords, getD_expandWords_old nk n _ i (by simp; omega)]
    simp [List.getD_eq_getElem?_getD, List.getElem?_append_left h]

/-- The recurrence reads only words before the index it gives. -/
theorem nextWord_congr {nk i : Nat} {ws ws' : List Quad} (hk : 0 < nk) (hi : 0 < i)
    (h : ∀ j, j < i → ws.getD j Quad.zero = ws'.getD j Quad.zero) : nextWord nk i ws = nextWord nk i ws' := by
  unfold nextWord
  rw [h (i - 1) (by omega), h (i - nk) (by omega)]

/-- Every new word follows the recurrence. -/
theorem getD_expandWords_new (nk : Nat) (hk : 0 < nk) : ∀ (n : Nat) (ws : List Quad), 0 < ws.length → ∀ i : Nat,
    ws.length ≤ i → i < ws.length + n →
    (expandWords nk n ws).getD i Quad.zero = nextWord nk i (expandWords nk n ws)
  | 0, ws, _, i, h1, h2 => by omega
  | n + 1, ws, hw, i, h1, h2 => by
    rw [expandWords]
    by_cases he : i = ws.length
    · subst he
      rw [getD_expandWords_old nk n _ _ (by simp)]
      have : nextWord nk ws.length (expandWords nk n (ws ++ [nextWord nk ws.length ws])) =
          nextWord nk ws.length ws := by
        apply nextWord_congr hk hw
        intro j hj
        rw [getD_expandWords_old nk n _ _ (by simp; omega)]
        simp [List.getD_eq_getElem?_getD, List.getElem?_append_left hj]
      rw [this]
      simp [List.getD_eq_getElem?_getD]
    · exact getD_expandWords_new nk hk n _ (by simp) i (by simp; omega) (by simp; omega)

/-- A word of the schedule register after a derivation. -/
theorem getD_scheduleOf (ws : List Quad) (i : Nat) :
    (scheduleOf ws)[i]?.getD Quad.zero = if i < 60 then ws.getD i Quad.zero else Quad.zero := by
  unfold scheduleOf
  by_cases h : i < 60
  · rw [if_pos h, Vector.getElem?_eq_getElem h]
    simp
  · rw [if_neg h, Vector.getElem?_eq_none (by omega)]
    rfl

theorem xorRcon_eq (q : Quad) (j : Nat) : xorRcon q j = xorQuad q ⟨rcon j, 0, 0, 0⟩ := by
  simp [xorRcon, xorQuad]

end Sys2Proof.Machine
end

