-- ==== Sys2Proof/Laws/Bignum.lean ====
section
/-! SUPPORT. The laws of the big-integer functions: `modexp` is the power modulo, `os2ip` and `bigEndian` are
inverse, `bytelen` is the least length (44_bignum.md R237 to R241), and the bignum register file. -/

namespace Sys2Proof.Machine

open Sys2Proof

/-! ## Lengths -/

theorem lt_two_pow_bitlen (n : Nat) : n < 2 ^ bitlen n := by
  unfold bitlen
  split
  · simp_all
  · exact Nat.lt_log2_self

theorem bitlen_le {n k : Nat} (h : n < 2 ^ k) : bitlen n ≤ k := by
  unfold bitlen
  split
  · omega
  · rename_i hn
    have := (Nat.log2_lt hn).2 h
    omega

theorem pow256 (k : Nat) : 256 ^ k = 2 ^ (8 * k) := by
  rw [Nat.pow_mul]

/-- A value is below 256 to its byte length. -/
theorem lt_pow_bytelen (n : Nat) : n < 256 ^ bytelen n := by
  rw [pow256]
  refine Nat.lt_of_lt_of_le (lt_two_pow_bitlen n) (Nat.pow_le_pow_right (by omega) ?_)
  unfold bytelen
  omega

/-- The byte length is the least such length (R238). -/
theorem bytelen_le {n k : Nat} (h : n < 256 ^ k) : bytelen n ≤ k := by
  rw [pow256] at h
  have := bitlen_le h
  unfold bytelen
  omega

theorem bytelen_le_iff (n k : Nat) : bytelen n ≤ k ↔ n < 256 ^ k :=
  ⟨fun h => Nat.lt_of_lt_of_le (lt_pow_bytelen n) (Nat.pow_le_pow_right (by omega) h), bytelen_le⟩

/-- A positive value is at least 256 to one less than its byte length. -/
theorem pow_pred_bytelen_le {n : Nat} (h : n ≠ 0) : 256 ^ (bytelen n - 1) ≤ n := by
  by_contra hlt
  have h1 := bytelen_le (Nat.lt_of_not_le hlt)
  have h2 : bytelen n ≠ 0 := by
    intro h0
    have := lt_pow_bytelen n
    rw [h0] at this
    omega
  omega

theorem bytelen_pos {n : Nat} (h : n ≠ 0) : 0 < bytelen n := by
  by_contra h0
  have := lt_pow_bytelen n
  rw [show bytelen n = 0 by omega] at this
  omega

/-! ## Modular exponentiation -/

theorem modexpLoop_eq (m : Nat) : ∀ (k b e acc : Nat), e < 2 ^ k → acc % m = acc →
    modexpLoop m k b e acc = acc * b ^ e % m
  | 0, b, e, acc, he, ha => by
    have : e = 0 := by omega
    subst this
    simp [modexpLoop, ha]
  | k + 1, b, e, acc, he, ha => by
    have hk : e / 2 < 2 ^ k := by omega
    have hb : (b * b % m) ^ (e / 2) ≡ b ^ (2 * (e / 2)) [MOD m] := by
      rw [Nat.pow_mul]
      exact ((Nat.mod_modEq (b * b) m).trans (by rw [Nat.pow_two])).pow _
    rw [modexpLoop]
    split
    · rename_i h1
      rw [modexpLoop_eq m k _ _ _ hk (Nat.mod_mod _ _)]
      have he2 : e = 2 * (e / 2) + 1 := by omega
      conv_rhs => rw [he2, Nat.pow_succ, Nat.mul_comm (b ^ _) b, ← Nat.mul_assoc]
      exact (Nat.mod_modEq (acc * b) m).mul hb
    · rename_i h1
      rw [modexpLoop_eq m k _ _ _ hk ha]
      have he2 : e = 2 * (e / 2) := by omega
      conv_rhs => rw [he2]
      exact Nat.ModEq.rfl.mul hb

/-- `modexp(b, e, m) = (b^e) mod m` (R237). -/
theorem modexp_eq (b e m : Nat) : modexp b e m = b ^ e % m := by
  unfold modexp
  rw [modexpLoop_eq m _ _ _ _ (lt_two_pow_bitlen e) (Nat.mod_mod _ _)]
  have : 1 % m * (b % m) ^ e ≡ 1 * b ^ e [MOD m] := (Nat.mod_modEq 1 m).mul ((Nat.mod_modEq b m).pow e)
  rwa [Nat.one_mul] at this

theorem modexp_lt (b e : Nat) {m : Nat} (h : m ≠ 0) : modexp b e m < m := by
  rw [modexp_eq]
  exact Nat.mod_lt _ (by omega)

/-! ## Byte strings and integers -/

@[simp] theorem os2ip_nil : os2ip [] = 0 := rfl

theorem os2ip_foldl (x : Bytes) : ∀ acc : Nat,
    x.foldl (fun acc b => 256 * acc + b.toNat) acc = acc * 256 ^ x.length + os2ip x := by
  induction x with
  | nil => intro acc; simp
  | cons b bs ih =>
    intro acc
    have h2 := ih (256 * acc + b.toNat)
    have h3 := ih (256 * 0 + b.toNat)
    simp only [List.foldl_cons, List.length_cons, os2ip] at *
    rw [h2, h3]
    ring

theorem os2ip_cons (b : Byte) (x : Bytes) : os2ip (b :: x) = b.toNat * 256 ^ x.length + os2ip x := by
  have := os2ip_foldl x (256 * 0 + b.toNat)
  simpa [os2ip] using this

theorem os2ip_append (x y : Bytes) : os2ip (x ++ y) = os2ip x * 256 ^ y.length + os2ip y := by
  have := os2ip_foldl y (os2ip x)
  rw [← this, os2ip, os2ip, List.foldl_append]

theorem os2ip_lt : ∀ x : Bytes, os2ip x < 256 ^ x.length
  | [] => by simp
  | b :: x => by
    rw [os2ip_cons, List.length_cons, Nat.pow_succ]
    have h1 := os2ip_lt x
    have h2 : b.toNat < 256 := b.isLt
    have h3 : b.toNat * 256 ^ x.length ≤ 255 * 256 ^ x.length := Nat.mul_le_mul_right _ (by omega)
    omega

@[simp] theorem length_bigEndian (v : Nat) : ∀ l, (bigEndian v l).length = l
  | 0 => rfl
  | l + 1 => by rw [bigEndian, List.length_cons, length_bigEndian v l]

theorem getD_bigEndian (v : Nat) : ∀ l i, i < l → (bigEndian v l).getD i 0 = BitVec.ofNat 8 (v / 256 ^ (l - 1 - i))
  | l + 1, 0, _ => by simp [bigEndian]
  | l + 1, i + 1, h => by
    rw [bigEndian, List.getD_cons_succ, getD_bigEndian v l i (by omega)]
    congr 3
    omega

theorem os2ip_bigEndian (v : Nat) : ∀ l, os2ip (bigEndian v l) = v % 256 ^ l
  | 0 => by simp [bigEndian, Nat.mod_one]
  | l + 1 => by
    rw [bigEndian, os2ip_cons, os2ip_bigEndian v l, length_bigEndian, BitVec.toNat_ofNat,
      show 256 ^ (l + 1) = 256 ^ l * 2 ^ 8 from Nat.pow_succ .., Nat.mod_mul, Nat.add_comm, Nat.mul_comm]

theorem bigEndian_mod (v : Nat) : ∀ l k, l ≤ k → bigEndian (v % 256 ^ k) l = bigEndian v l
  | 0, _, _ => rfl
  | l + 1, k, h => by
    rw [bigEndian, bigEndian, bigEndian_mod v l k (by omega)]
    congr 1
    apply BitVec.eq_of_toNat_eq
    simp only [BitVec.toNat_ofNat]
    obtain ⟨d, rfl⟩ : ∃ d, k = l + 1 + d := ⟨k - (l + 1), by omega⟩
    rw [show 256 ^ (l + 1 + d) = 256 ^ l * (256 * 256 ^ d) by ring, Nat.mod_mul_right_div_self]
    exact Nat.mod_mul_right_mod _ _ _

/-- `I2OSP(OS2IP(X), len(X)) = X` (R239). -/
theorem bigEndian_os2ip : ∀ x : Bytes, bigEndian (os2ip x) x.length = x
  | [] => rfl
  | b :: x => by
    rw [List.length_cons, bigEndian, os2ip_cons]
    have h1 := os2ip_lt x
    have h2 : b.toNat < 256 := b.isLt
    congr 1
    · rw [Nat.mul_comm, Nat.mul_add_div (by positivity), Nat.div_eq_of_lt h1]
      apply BitVec.eq_of_toNat_eq
      simp only [BitVec.toNat_ofNat]
      omega
    · rw [← bigEndian_mod _ x.length x.length le_rfl, Nat.mul_comm, Nat.mul_add_mod, Nat.mod_eq_of_lt h1,
        bigEndian_os2ip x]

/-- A byte string is its big-endian value at its length. -/
theorem eq_of_os2ip_eq {x y : Bytes} (hl : x.length = y.length) (h : os2ip x = os2ip y) : x = y := by
  rw [← bigEndian_os2ip x, ← bigEndian_os2ip y, hl, h]

/-- OS2IP as the sum of R240. -/
theorem os2ip_eq_sum : ∀ x : Bytes,
    os2ip x = ((List.range x.length).map fun i => (x.getD i 0).toNat * 256 ^ (x.length - 1 - i)).sum
  | [] => rfl
  | b :: x => by
    rw [os2ip_cons, os2ip_eq_sum x, List.length_cons, List.range_succ_eq_map, List.map_cons, List.sum_cons,
      List.map_map]
    congr 1
    congr 1
    apply List.map_congr_left
    intro i hi
    simp only [Function.comp, List.getD_cons_succ]
    congr 2
    omega

/-! ## The register file -/

theorem State.bnVal_putBn (s : State) (r q : BitVec 6) (v : Nat) :
    (s.putBn r v).bnVal q = if q = r then v else s.bnVal q := by
  unfold State.bnVal State.putBn
  simp only
  by_cases h : q = r
  · subst h
    simp
  · rw [if_neg h, Vector.getElem_set_ne]
    exact fun e => h (BitVec.eq_of_toNat_eq e.symm)

theorem State.bnValid_putBn (s : State) (r q : BitVec 6) (v : Nat) :
    (s.putBn r v).bnValid q = if q = r then true else s.bnValid q := by
  unfold State.bnValid State.putBn
  simp only
  by_cases h : q = r
  · subst h
    simp
  · rw [if_neg h, Vector.getElem_set_ne]
    exact fun e => h (BitVec.eq_of_toNat_eq e.symm)

end Sys2Proof.Machine
end

