-- ==== Sys2Proof/Laws/Dbuf.lean ====
section
/-! SUPPORT. What a command that stores a byte string in `DBUF` leaves there and elsewhere (10_state.md R35, R43), and
the parts of `DBUF` that commands read. -/

namespace Sys2Proof.Machine

open Sys2Proof

/-- A stored byte is read back. -/
theorem State.dbufByte_putDbuf {s : State} (h : Memory.wf s.mem = true) (x : Bytes) {i : Nat} (hi : i < x.length) :
    (s.putDbuf x).dbufByte i = x.getD i 0 := by
  simp only [State.dbufByte, State.putDbuf_mem]
  rw [Memory.read_writeBytes x h, if_pos (by omega), Nat.add_sub_cancel_left]

/-- Bytes outside the stored ones stay. -/
theorem State.read_putDbuf_other (s : State) (x : Bytes) {a : Nat}
    (h : ¬(dbufBase ≤ a ∧ a < dbufBase + x.length)) :
    Memory.read (s.putDbuf x).mem a = Memory.read s.mem a := by
  rw [State.putDbuf_mem]
  exact Memory.read_writeBytes_other x s.mem dbufBase a h

/-- The stored string is read back whole. -/
theorem State.dbuf_putDbuf {s : State} (h : Memory.wf s.mem = true) (x : Bytes) : (s.putDbuf x).dbuf x.length = x := by
  simp only [State.dbuf, State.putDbuf_mem]
  exact Memory.readBytes_writeBytes x h dbufBase

@[simp] theorem State.length_dbuf (s : State) (n : Nat) : (s.dbuf n).length = n := Memory.length_readBytes ..

@[simp] theorem State.length_hbuf (s : State) (n : Nat) : (s.hbuf n).length = n := Memory.length_readBytes ..

theorem State.getD_dbuf (s : State) {n i : Nat} (h : i < n) : (s.dbuf n).getD i 0 = s.dbufByte i :=
  Memory.getD_readBytes s.mem n dbufBase i h

theorem State.blockByte_dbufBlock (s : State) {i : Nat} (h : i < 16) : blockByte s.dbufBlock i = s.dbufByte i := by
  rw [State.dbufBlock, blockOfBytes, blockByte_blockOfFn _ _ h, State.getD_dbuf s h]

/-- The block a command stores is the block it leaves in `DBUF[0..15]`. -/
theorem State.dbufBlock_putDbuf {s : State} (h : Memory.wf s.mem = true) (b : Block) :
    (s.putDbuf (blockBytes b)).dbufBlock = b := by
  have := State.dbuf_putDbuf h (blockBytes b)
  rw [length_blockBytes] at this
  rw [State.dbufBlock, this, blockOfBytes_blockBytes]

/-- What completion leaves alone. -/
@[simp] theorem State.dbufByte_complete (s : State) (i : Nat) : s.complete.dbufByte i = s.dbufByte i := rfl
@[simp] theorem State.dbuf_complete (s : State) (n : Nat) : s.complete.dbuf n = s.dbuf n := rfl
@[simp] theorem State.dbufBlock_complete (s : State) : s.complete.dbufBlock = s.dbufBlock := rfl
@[simp] theorem State.bnVal_complete (s : State) (r : BitVec 6) : s.complete.bnVal r = s.bnVal r := rfl
@[simp] theorem State.bnValid_complete (s : State) (r : BitVec 6) : s.complete.bnValid r = s.bnValid r := rfl
@[simp] theorem State.components_complete (s : State) : s.complete.components = s.components := rfl
@[simp] theorem State.buffered_complete (s : State) : s.complete.buffered = s.buffered := rfl
@[simp] theorem State.scheduleWord_complete (s : State) (i : Nat) : s.complete.scheduleWord i = s.scheduleWord i := rfl

/-! ## The sizes R11's constraints give -/

theorem Config.wf_iff (c : Config) : c.wf = true ↔
    c.base % 0x4000 = 0 ∧ 1 ≤ c.kmax ∧ c.kmax ≤ c.dbufSize ∧ c.apMax ≤ 7 ∧ c.dbufSize % 4 = 0 ∧
      128 ≤ c.dbufSize ∧ c.dbufSize ≤ 4032 ∧ c.dbufSize + 48 ≤ 16 * c.outqDepth ∧ c.outqDepth ≤ 255 := by
  simp [Config.wf, and_assoc]

end Sys2Proof.Machine
end

