-- ==== Sys2Proof/Laws/Bus.lean ====
section
/-! SUPPORT. The laws of the bus: which row a legal access falls in, and what an access of each kind of row does
(20_memory.md R70 to R80). -/

namespace Sys2Proof.Machine

open Sys2Proof

/-! ## Addresses and rows -/

theorem blockOffset_base (cfg : Config) {off : Nat} (h : off < 0x4000) :
    blockOffset cfg (cfg.base + off) = some off := by
  unfold blockOffset
  rw [if_pos (by omega), Nat.add_sub_cancel_left]

theorem Width.one_le_bytes (n : Width) : 1 ≤ n.bytes := by cases n <;> decide

/-- The rows after the registers. -/
def windowRows (cfg : Config) : List MapRow :=
  [⟨0x40, 16, .outhead⟩, ⟨ivBase, 16, .iv⟩, ⟨keyBase, 32, .key⟩, ⟨0x80, 64, .oidv⟩, ⟨hbufBase, 64, .hbuf⟩,
    ⟨dbufBase, cfg.dbufSize, .dbuf⟩]

/-- Rows do not overlap: an access that lies in one row lies in no other. -/
theorem addressMap_disjoint (cfg : Config) :
    (addressMap cfg).Pairwise fun a b => a.base + a.size ≤ b.base := by
  simp [addressMap, registerRows, List.pairwise_cons, ivBase, keyBase, hbufBase, dbufBase]

theorem find_of_disjoint {off k : Nat} (hk : 1 ≤ k) {p : MapRow → Bool}
    (hp : ∀ r, p r = true → r.base ≤ off ∧ off + k ≤ r.base + r.size) {row : MapRow} (hr : p row = true) :
    ∀ rows : List MapRow, (rows.Pairwise fun a b => a.base + a.size ≤ b.base) → row ∈ rows → rows.find? p = some row
  | [], _, h => nomatch h
  | r :: rows, hd, h => by
    rw [List.pairwise_cons] at hd
    rcases List.mem_cons.1 h with h | h
    · subst h
      exact List.find?_cons_of_pos hr
    · have h1 := hd.1 row h
      have h2 := hp row hr
      rw [List.find?_cons_of_neg fun h3 => by have := hp r h3; omega]
      exact find_of_disjoint hk hp hr rows hd.2 h

/-- A legal access falls in exactly the row that holds its bytes (R76). -/
theorem legalRow_eq_some_iff (cfg : Config) (off : Nat) (n : Width) (row : MapRow) :
    legalRow cfg off n = some row ↔
      row ∈ addressMap cfg ∧ off % n.bytes = 0 ∧ row.base ≤ off ∧ off + n.bytes ≤ row.base + row.size ∧
        (n = .word ∨ row.target.narrow = true) := by
  unfold legalRow
  by_cases ha : off % n.bytes = 0
  · simp only [ha, ne_eq, not_true_eq_false, if_false, true_and]
    constructor
    · intro h
      have h1 := List.find?_some h
      simp only [Bool.and_eq_true, Bool.or_eq_true, decide_eq_true_eq] at h1
      exact ⟨List.mem_of_find?_eq_some h, h1.1.1, h1.1.2, h1.2⟩
    · rintro ⟨hm, h1, h2, h3⟩
      refine find_of_disjoint (off := off) n.one_le_bytes (fun r hr => ?_) ?_ _ (addressMap_disjoint cfg) hm
      · simp only [Bool.and_eq_true, decide_eq_true_eq] at hr
        exact hr.1
      · simp only [Bool.and_eq_true, Bool.or_eq_true, decide_eq_true_eq]
        exact ⟨⟨h1, h2⟩, h3⟩
  · simp [ha]

/-- The 32-bit registers, each at its own offset (R71). -/
theorem legalRow_register (cfg : Config) {row : MapRow} (h : row ∈ registerRows) :
    legalRow cfg row.base .word = some row := by
  have aligned : ∀ r ∈ registerRows, r.base % 4 = 0 ∧ r.size = 4 := by decide
  obtain ⟨h1, h2⟩ := aligned row h
  refine (legalRow_eq_some_iff cfg row.base .word row).2 ⟨List.mem_append_left _ h, h1, le_rfl, ?_, .inl rfl⟩
  rw [h2]
  exact le_rfl

theorem legalRow_oidv (cfg : Config) {i : Nat} (h : i < 16) :
    legalRow cfg (0x80 + 4 * i) .word = some ⟨0x80, 64, .oidv⟩ := by
  refine (legalRow_eq_some_iff cfg _ .word _).2 ⟨by simp [addressMap], ?_, ?_, ?_, .inl rfl⟩ <;>
    simp only [Width.bytes] <;> omega

/-- The windows that hold bytes of the memory. -/
theorem legalRow_window (cfg : Config) {row : MapRow} {off : Nat} {n : Width} (h : row ∈ windowRows cfg)
    (hn : row.target.narrow = true) (ha : off % n.bytes = 0) (h1 : row.base ≤ off)
    (h2 : off + n.bytes ≤ row.base + row.size) : legalRow cfg off n = some row :=
  (legalRow_eq_some_iff cfg off n row).2 ⟨List.mem_append_right _ h, ha, h1, h2, .inr hn⟩

/-! ## One access -/

/-- A legal write: its row's effect, and the acknowledgement (R75). -/
theorem State.hostAccess_write {s : State} {off : Nat} {n : Width} {row : MapRow} (ho : off < 0x4000)
    (hl : legalRow s.cfg off n = some row) (v : Word) :
    s.hostAccess (.write (s.cfg.base + off) n v) = (s.writeRow row off n.bytes v).respond .written := by
  simp only [State.hostAccess, blockOffset_base s.cfg ho, State.busWrite, hl]

/-- A read: nothing but the response (R74, R80). -/
theorem State.hostAccess_read {s : State} {off : Nat} (ho : off < 0x4000) (n : Width) :
    s.hostAccess (.read (s.cfg.base + off) n) = s.respond (s.busRead off n) := by
  simp only [State.hostAccess, blockOffset_base s.cfg ho]

theorem State.busRead_register {s : State} {off : Nat} {n : Width} {b k : Nat} {r : Reg32}
    (hl : legalRow s.cfg off n = some ⟨b, k, .reg r⟩) : s.busRead off n = .data (s.readReg r) := by
  simp only [State.busRead, hl]

theorem State.busRead_oidv (s : State) {i : Nat} (h : i < 16) :
    s.busRead (0x80 + 4 * i) .word = .data s.oidv[i] := by
  simp only [State.busRead, legalRow_oidv s.cfg h, show (0x80 + 4 * i - 0x80) / 4 = i by omega]
  rw [Vector.getElem?_eq_getElem h, Option.getD_some]

/-- A 1-byte read of a window is that byte with zeros above (R74). -/
theorem State.busRead_byte {s : State} {off : Nat} {row : MapRow} (hl : legalRow s.cfg off .byte = some row)
    (hn : row.target.narrow = true) : s.busRead off .byte = .data ((s.windowByte row.target off).setWidth 32) := by
  obtain ⟨b, k, t⟩ := row
  cases t <;> simp_all [State.busRead, Width.bytes, fromLanes, Target.narrow]

/-- A 1-byte write of a window that holds bytes of the memory is one write of the memory (R75). -/
theorem State.writeRow_byte {s : State} {off b k : Nat} {t : Target}
    (ht : t = .iv ∨ t = .key ∨ t = .hbuf ∨ t = .dbuf) (v : Word) :
    s.writeRow ⟨b, k, t⟩ off 1 v = { s with mem := Memory.write s.mem off (v.setWidth 8) } := by
  rcases ht with h | h | h | h <;> subst h <;>
    simp [State.writeRow, State.writeWindow, lanes, Memory.writeBytes]

end Sys2Proof.Machine
end

