-- ==== Sys2Proof/Laws/Der.lean ====
section
/-! SUPPORT. The laws of the DER functions: which error a decoder raises, lengths, and the base-128 groups of one
component (46_der.md). -/

namespace Sys2Proof.Machine

open Sys2Proof

/-! ## The decoders raise DecodeError only -/

/-- A check in front of a decoder: if both raise x only, so does the whole. -/
theorem error_of_check {α : Type} {c : Prop} [Decidable c] {x e : Exc} {r : Except Exc α}
    (hr : r = .error e → e = x) (h : (if c then .error x else r) = .error e) : e = x := by
  by_cases hc : c
  · rw [if_pos hc] at h
    exact (Except.error.inj h).symm
  · rw [if_neg hc] at h
    exact hr h

theorem derlenDec_error {x : Bytes} {e : Exc} (h : derlenDec x = .error e) : e = .decodeError := by
  cases x with
  | nil => exact (Except.error.inj h).symm
  | cons x0 rest =>
    by_cases h0 : x0.toNat < 0x80
    · simp [derlenDec, h0] at h
    · simp only [derlenDec, if_neg h0] at h
      refine error_of_check (fun h => error_of_check (fun h => error_of_check (fun h => ?_) h) h) h
      refine error_of_check (fun h => error_of_check (fun h => ?_) h) h
      cases h

theorem oidDecLoop_error (xs : Bytes) : ∀ (acc : Nat) (isOpen : Bool) (o : List Nat) (e : Exc),
    oidDecLoop xs acc isOpen o = .error e → e = .decodeError := by
  induction xs with
  | nil =>
    intro acc isOpen o e h
    refine error_of_check (fun h => ?_) h
    cases h
  | cons x xs ih =>
    intro acc isOpen o e h
    refine error_of_check (fun h => error_of_check (fun h => ?_) h) h
    by_cases hx : x.getLsbD 7
    · rw [if_pos hx] at h
      exact ih _ _ _ _ h
    · rw [if_neg hx] at h
      exact error_of_check (ih _ _ _ _) h

theorem oidDecValue_error {val : Bytes} {e : Exc} (h : oidDecValue val = .error e) : e = .decodeError := by
  cases val with
  | nil => exact (Except.error.inj h).symm
  | cons b rest => exact oidDecLoop_error rest _ _ _ _ h

theorem oidDec_error {x : Bytes} {e : Exc} (h : oidDec x = .error e) : e = .decodeError := by
  cases x with
  | nil => exact (Except.error.inj h).symm
  | cons tag rest =>
    refine error_of_check (fun h => ?_) h
    cases hd : derlenDec rest with
    | error e' =>
      rw [hd] at h
      exact Except.error.inj h ▸ derlenDec_error hd
    | ok r =>
      simp only [hd] at h
      refine error_of_check (fun h => ?_) h
      cases hv : oidDecValue ((rest.drop r.2).take r.1) with
      | ok o => simp [hv, Except.map] at h
      | error e' =>
        rw [hv] at h
        exact Except.error.inj h ▸ oidDecValue_error hv

/-! ## Lengths -/

/-- A DER length has one byte, or one and the value's byte length (R281). -/
theorem length_derlen (v : Nat) : (derlen v).length = if v < 128 then 1 else 1 + bytelen v := by
  unfold derlen
  split
  · rfl
  · simp
    omega

@[simp] theorem length_base128Digits (c : Nat) : ∀ n, (base128Digits c n).length = n
  | 0 => rfl
  | n + 1 => by rw [base128Digits, List.length_cons, length_base128Digits c n]

/-- A 32-bit component takes at most five groups (R286). -/
theorem length_base128_le {c : Nat} (h : c < 2 ^ 32) : (base128 c).length ≤ 5 := by
  have := bitlen_le h
  rw [base128, length_base128Digits]
  omega

theorem one_le_length_base128 (c : Nat) : 1 ≤ (base128 c).length := by
  rw [base128, length_base128Digits]
  omega

end Sys2Proof.Machine
end

