-- ==== Sys2Proof/Laws/Encoding.lean ====
section
/-! SUPPORT. The fields of an assembled command word and of any word (30_encoding.md R100). -/

namespace Sys2Proof

@[simp] theorem opcOf_commandWord (opc a : Byte) (l : BitVec 16) : opcOf (commandWord opc a l) = opc := by
  apply BitVec.eq_of_getLsbD_eq
  intro i hi
  simp only [opcOf, commandWord, BitVec.getLsbD_extractLsb', BitVec.getLsbD_append]
  simp [hi]

@[simp] theorem aOf_commandWord (opc a : Byte) (l : BitVec 16) : aOf (commandWord opc a l) = a := by
  apply BitVec.eq_of_getLsbD_eq
  intro i hi
  simp only [aOf, commandWord, BitVec.getLsbD_extractLsb', BitVec.getLsbD_append]
  simp [hi]

@[simp] theorem lOf_commandWord (opc a : Byte) (l : BitVec 16) : lOf (commandWord opc a l) = l := by
  apply BitVec.eq_of_getLsbD_eq
  intro i hi
  simp only [lOf, commandWord, BitVec.getLsbD_extractLsb', BitVec.getLsbD_append]
  simp [hi, show ¬(16 + i < 8) by omega, show ¬(16 + i - 8 < 8) by omega, show 16 + i - 8 - 8 = i by omega]

/-- A word is its three fields. -/
theorem commandWord_fields (c : Word) : commandWord (opcOf c) (aOf c) (lOf c) = c := by
  apply BitVec.eq_of_getLsbD_eq
  intro i hi
  simp only [opcOf, aOf, lOf, commandWord, BitVec.getLsbD_append, BitVec.getLsbD_extractLsb']
  by_cases h1 : i < 8
  · simp [h1]
  · by_cases h2 : i < 16
    · simp [h1, show i - 8 < 8 by omega, show 8 + (i - 8) = i by omega]
    · simp [h1, show ¬(i - 8 < 8) by omega, show i - 8 - 8 < 16 by omega, show 16 + (i - 8 - 8) = i by omega]

theorem opcOf_toNat (c : Word) : (opcOf c).toNat = c.toNat % 256 := by
  simp [opcOf, BitVec.extractLsb'_toNat]

theorem aOf_toNat (c : Word) : (aOf c).toNat = c.toNat / 256 % 256 := by
  simp [aOf, BitVec.extractLsb'_toNat, Nat.shiftRight_eq_div_pow]

theorem lOf_toNat (c : Word) : (lOf c).toNat = c.toNat / 65536 := by
  have := c.isLt
  simp [lOf, BitVec.extractLsb'_toNat, Nat.shiftRight_eq_div_pow]
  omega

/-! ## The sub-fields of `A` (R103): taken out of an assembled byte, and put back -/

theorem extract_ks (ks : BitVec 2) : (0#6 ++ ks : Byte).extractLsb' 0 2 = ks := by revert ks; decide

theorem extract_four (x : BitVec 4) : (0#4 ++ x : Byte).extractLsb' 0 4 = x := by revert x; decide

theorem extract_reg (reg : BitVec 6) : (0#2 ++ reg : Byte).extractLsb' 0 6 = reg := by revert reg; decide

theorem extract_pad (pad : BitVec 2) (chain : ChainMode) (dir : Dir) :
    (0#4 ++ pad ++ chain.bit ++ dir.bit : Byte).extractLsb' 2 2 = pad ∧
      chainOf (0#4 ++ pad ++ chain.bit ++ dir.bit) = chain ∧ dirOf (0#4 ++ pad ++ chain.bit ++ dir.bit) = dir := by
  cases chain <;> cases dir <;> revert pad <;> decide

theorem extract_form (form : KeyForm) : formOf ((0#7 ++ form.bit : Byte).getLsbD 0) = form := by
  cases form <;> decide

theorem extract_signing (alg : BitVec 4) (form : KeyForm) :
    (0#3 ++ form.bit ++ alg : Byte).extractLsb' 0 4 = alg ∧
      formOf ((0#3 ++ form.bit ++ alg : Byte).getLsbD 4) = form := by
  cases form <;> revert alg <;> decide

theorem assemble_ks (a : Byte) (h : a &&& 0xFC = 0) : (0#6 ++ a.extractLsb' 0 2 : Byte) = a := by
  revert a; decide

theorem assemble_four (a : Byte) (h : a &&& 0xF0 = 0) : (0#4 ++ a.extractLsb' 0 4 : Byte) = a := by
  revert a; decide

theorem assemble_reg (a : Byte) (h : a &&& 0xC0 = 0) : (0#2 ++ a.extractLsb' 0 6 : Byte) = a := by
  revert a; decide

theorem assemble_pad (a : Byte) (h : a &&& 0xF0 = 0) :
    (0#4 ++ a.extractLsb' 2 2 ++ (chainOf a).bit ++ (dirOf a).bit : Byte) = a := by
  revert a; decide

theorem assemble_form (a : Byte) (h : a &&& 0xFE = 0) : (0#7 ++ (formOf (a.getLsbD 0)).bit : Byte) = a := by
  revert a; decide

theorem assemble_signing (a : Byte) (h : a &&& 0xE0 = 0) :
    (0#3 ++ (formOf (a.getLsbD 4)).bit ++ a.extractLsb' 0 4 : Byte) = a := by
  revert a; decide

end Sys2Proof
end

