-- ==== Sys2Proof/Laws/PerInstr.lean ====
section
/-! SUPPORT. Statements made per instruction. Family OpcodeFits: the encoded word of an instruction has a row of the
opcode map and passes its must-be-zero tests (30_encoding.md R105's first four tests). -/

namespace Sys2Proof.Laws.OpcodeFits

open Sys2Proof

/-- A word that passes the first four tests of R105. -/
def Fits (c : Word) : Prop :=
  ∃ row, opcodeRows.find? (fun row => row.opc = opcOf c) = some row ∧
    (row.usesA = false → aOf c = 0) ∧ (row.usesL = false → lOf c = 0) ∧ aOf c &&& ~~~row.aBits = 0

/-- The family's statement about one instruction. -/
def Statement (i : Instr) : Prop := Fits (encode i)

theorem of_row {opc a : Byte} {l : BitVec 16} (row : OpcodeRow)
    (h : opcodeRows.find? (fun row => row.opc = opc) = some row) (ha : row.usesA = false → a = 0)
    (hl : row.usesL = false → l = 0) (hb : a &&& ~~~row.aBits = 0) : Fits (commandWord opc a l) :=
  ⟨row, by simpa using h, by simpa using ha, by simpa using hl, by simpa using hb⟩

theorem nop : Statement .nop :=
  of_row ⟨0x00, false, false, 0x00⟩ (by rfl) (by simp) (by simp) (by decide)

theorem aesKeyexp (ks : BitVec 2) : Statement (.aesKeyexp ks) :=
  of_row ⟨0x01, true, false, 0x03⟩ (by rfl) (by simp) (by simp) (by revert ks; decide)

theorem aesEncb (l : BitVec 16) : Statement (.aesEncb l) :=
  of_row ⟨0x02, false, true, 0x00⟩ (by rfl) (by simp) (by simp) (by decide)

theorem aesDecb (l : BitVec 16) : Statement (.aesDecb l) :=
  of_row ⟨0x03, false, true, 0x00⟩ (by rfl) (by simp) (by simp) (by decide)

theorem sesInit (dir : Dir) (chain : ChainMode) (pad : BitVec 2) : Statement (.sesInit dir chain pad) :=
  of_row ⟨0x04, true, false, 0x0F⟩ (by rfl) (by simp) (by simp) (by cases dir <;> cases chain <;> revert pad <;> decide)

theorem sesUpdate (l : BitVec 16) : Statement (.sesUpdate l) :=
  of_row ⟨0x05, false, true, 0x00⟩ (by rfl) (by simp) (by simp) (by decide)

theorem sesFinal (l : BitVec 16) : Statement (.sesFinal l) :=
  of_row ⟨0x06, false, true, 0x00⟩ (by rfl) (by simp) (by simp) (by decide)

theorem gfMul (l : BitVec 16) : Statement (.gfMul l) :=
  of_row ⟨0x08, false, true, 0x00⟩ (by rfl) (by simp) (by simp) (by decide)

theorem stSubbytes (l : BitVec 16) : Statement (.stSubbytes l) :=
  of_row ⟨0x09, false, true, 0x00⟩ (by rfl) (by simp) (by simp) (by decide)

theorem stInvsubbytes (l : BitVec 16) : Statement (.stInvsubbytes l) :=
  of_row ⟨0x0A, false, true, 0x00⟩ (by rfl) (by simp) (by simp) (by decide)

theorem stShiftrows (l : BitVec 16) : Statement (.stShiftrows l) :=
  of_row ⟨0x0B, false, true, 0x00⟩ (by rfl) (by simp) (by simp) (by decide)

theorem stInvshiftrows (l : BitVec 16) : Statement (.stInvshiftrows l) :=
  of_row ⟨0x0C, false, true, 0x00⟩ (by rfl) (by simp) (by simp) (by decide)

theorem stMixcolumns (l : BitVec 16) : Statement (.stMixcolumns l) :=
  of_row ⟨0x0D, false, true, 0x00⟩ (by rfl) (by simp) (by simp) (by decide)

theorem stInvmixcolumns (l : BitVec 16) : Statement (.stInvmixcolumns l) :=
  of_row ⟨0x0E, false, true, 0x00⟩ (by rfl) (by simp) (by simp) (by decide)

theorem stAddroundkey (round : BitVec 4) (l : BitVec 16) : Statement (.stAddroundkey round l) :=
  of_row ⟨0x0F, true, true, 0x0F⟩ (by rfl) (by simp) (by simp) (by revert round; decide)

theorem bnLd (reg : BitVec 6) (l : BitVec 16) : Statement (.bnLd reg l) :=
  of_row ⟨0x10, true, true, 0x3F⟩ (by rfl) (by simp) (by simp) (by revert reg; decide)

theorem bnSt (reg : BitVec 6) (l : BitVec 16) : Statement (.bnSt reg l) :=
  of_row ⟨0x11, true, true, 0x3F⟩ (by rfl) (by simp) (by simp) (by revert reg; decide)

theorem rsaSp1 (form : KeyForm) : Statement (.rsaSp1 form) :=
  of_row ⟨0x12, true, false, 0x01⟩ (by rfl) (by simp) (by simp) (by cases form <;> decide)

theorem rsaVp1 : Statement .rsaVp1 :=
  of_row ⟨0x13, false, false, 0x00⟩ (by rfl) (by simp) (by simp) (by decide)

theorem emsaEnc (alg : BitVec 4) (l : BitVec 16) : Statement (.emsaEnc alg l) :=
  of_row ⟨0x14, true, true, 0x0F⟩ (by rfl) (by simp) (by simp) (by revert alg; decide)

theorem pkcsSign (alg : BitVec 4) (form : KeyForm) : Statement (.pkcsSign alg form) :=
  of_row ⟨0x15, true, false, 0x1F⟩ (by rfl) (by simp) (by simp) (by cases form <;> revert alg <;> decide)

theorem pkcsVerify (alg : BitVec 4) (l : BitVec 16) : Statement (.pkcsVerify alg l) :=
  of_row ⟨0x16, true, true, 0x0F⟩ (by rfl) (by simp) (by simp) (by revert alg; decide)

theorem derLenenc : Statement .derLenenc :=
  of_row ⟨0x18, false, false, 0x00⟩ (by rfl) (by simp) (by simp) (by decide)

theorem derLendec (l : BitVec 16) : Statement (.derLendec l) :=
  of_row ⟨0x19, false, true, 0x00⟩ (by rfl) (by simp) (by simp) (by decide)

theorem oidEnc : Statement .oidEnc :=
  of_row ⟨0x1A, false, false, 0x00⟩ (by rfl) (by simp) (by simp) (by decide)

theorem oidDec (l : BitVec 16) : Statement (.oidDec l) :=
  of_row ⟨0x1B, false, true, 0x00⟩ (by rfl) (by simp) (by simp) (by decide)

theorem algidEnc (alg : BitVec 4) : Statement (.algidEnc alg) :=
  of_row ⟨0x1C, true, false, 0x0F⟩ (by rfl) (by simp) (by simp) (by revert alg; decide)

theorem oidLdalg (alg : BitVec 4) : Statement (.oidLdalg alg) :=
  of_row ⟨0x1D, true, false, 0x0F⟩ (by rfl) (by simp) (by simp) (by revert alg; decide)

end Sys2Proof.Laws.OpcodeFits
end

