-- ==== Sys2Proof/Laws/Pkcs.lean ====
section
/-! SUPPORT. The algorithm table, the encoded algorithm identifiers and the encoded message in closed form
(10_state.md R46, 46_der.md R297, 47_pkcs1.md R311, R312). -/

namespace Sys2Proof.Machine

open Sys2Proof

/-- A code below 9 names a row of the table as the spec prints it. -/
theorem algOf_some {alg : BitVec 4} (h : alg.toNat < 9) : ∃ row, algOf alg = some row ∧
    row.oid = algorithmOid alg ∧ row.hLen = hLenOf alg ∧ algidEnc row = .ok (algidBytes alg) ∧
    (algidBytes alg).length = algidLength alg ∧ algidLength alg ≤ 15 ∧ hLenOf alg ≤ 64 := by
  revert h; revert alg; decide +kernel

/-- The codes 9 to 15 name none. -/
theorem algOf_none {alg : BitVec 4} (h : 9 ≤ alg.toNat) : algOf alg = none := by
  revert h; revert alg; decide +kernel

theorem derlen_short {n : Nat} (h : n < 128) : derlen n = [BitVec.ofNat 8 n] := by
  unfold derlen
  rw [if_pos h]

/-- T in closed form. -/
theorem buildT_eq {alg : BitVec 4} {row : AlgRow} {h : Bytes} (form : EmsaTForm) (ha : alg.toNat < 9)
    (hr : algOf alg = some row) (hl : h.length ≤ 64) :
    buildT form row h = .ok (tBytes form alg h) ∧ (tBytes form alg h).length = tLenOf form alg h.length := by
  obtain ⟨row', hr', -, -, he, hlen, h15, -⟩ := algOf_some ha
  rw [hr] at hr'
  injection hr' with hr'
  subst hr'
  cases form with
  | literal => simp [buildT, he, Except.map, tBytes, tLenOf, hlen]
  | digestInfo =>
    constructor
    · simp only [buildT, he, Except.map]
      rw [derlen_short (show h.length < 128 by omega)]
      have : (algidBytes alg ++ 0x04#8 :: [BitVec.ofNat 8 h.length] ++ h).length = algidLength alg + 2 + h.length := by
        simp [hlen]
        omega
      rw [this, derlen_short (by omega)]
      simp [tBytes]
    · simp [tBytes, tLenOf, hlen]
      omega

/-- EM in closed form: with a digest that is not too long, the length test decides. -/
theorem emsa_eq {alg : BitVec 4} {row : AlgRow} {h : Bytes} (form : EmsaTForm) (emLen : Nat) (ha : alg.toNat < 9)
    (hr : algOf alg = some row) (hl : h.length ≤ hLenOf alg) :
    emsa form row h emLen =
      if emLen < tLenOf form alg h.length + 11 then .error .encodedMessageTooShort
      else .ok (emBytes form alg h emLen) := by
  obtain ⟨row', hr', -, hh, -, -, -, h64⟩ := algOf_some ha
  rw [hr] at hr'
  injection hr' with hr'
  subst hr'
  obtain ⟨ht, htl⟩ := buildT_eq form ha hr (show h.length ≤ 64 by omega)
  unfold emsa
  rw [if_neg (by omega), ht]
  simp only [htl]
  split
  · rfl
  · simp [emBytes]

theorem length_emBytes {alg : BitVec 4} {h : Bytes} (form : EmsaTForm) {emLen : Nat} (ha : alg.toNat < 9)
    (hl : h.length ≤ hLenOf alg) (hlen : tLenOf form alg h.length + 11 ≤ emLen) :
    (emBytes form alg h emLen).length = emLen := by
  obtain ⟨row, hr, -, hh, -, -, -, h64⟩ := algOf_some ha
  obtain ⟨-, htl⟩ := buildT_eq form ha hr (show h.length ≤ 64 by omega)
  simp [emBytes, htl]
  omega

/-- The encoded message begins with a zero byte, so its integer is below 256 to one less than its length. -/
theorem os2ip_emBytes_lt {alg : BitVec 4} {h : Bytes} (form : EmsaTForm) {emLen : Nat} (ha : alg.toNat < 9)
    (hl : h.length ≤ hLenOf alg) (hlen : tLenOf form alg h.length + 11 ≤ emLen) :
    os2ip (emBytes form alg h emLen) < 256 ^ (emLen - 1) := by
  have h1 := length_emBytes form ha hl hlen
  obtain ⟨x, hx⟩ : ∃ x, emBytes form alg h emLen = 0x00#8 :: x := ⟨_, rfl⟩
  rw [hx] at h1 ⊢
  rw [os2ip_cons, ← h1]
  simpa using os2ip_lt x

end Sys2Proof.Machine
end

