-- ==== Sys2Proof/Laws/Rsa.lean ====
section
/-! SUPPORT. The laws of one recombination step, and of exponents modulo a prime (45_rsa.md R263, R268). -/

namespace Sys2Proof.Machine

open Sys2Proof

/-- `((a - b) * c) mod m` is in range. -/
theorem subMulMod_lt (a b c : Nat) {m : Nat} (hm : 0 < m) : subMulMod a b c m < m := by
  unfold subMulMod
  have h1 := Int.emod_lt_of_pos (((a : Int) - b) * c) (show (0 : Int) < m by omega)
  have h2 := Int.emod_nonneg (((a : Int) - b) * c) (show (m : Int) ≠ 0 by omega)
  omega

/-- And it is congruent to its integer argument. -/
theorem subMulMod_modEq (a b c : Nat) {m : Nat} (hm : 0 < m) :
    (subMulMod a b c m : Int) ≡ ((a : Int) - b) * c [ZMOD m] := by
  unfold subMulMod
  rw [Int.toNat_of_nonneg (Int.emod_nonneg _ (by omega))]
  exact Int.mod_modEq _ _

/-- One step of the recombination: from a value below R to the value below R * r that is the same modulo R and is
the given residue modulo r. -/
theorem recombine {bigR r t x s : Nat} (hr : 0 < r) (ht : t * bigR % r = 1 % r) (hs : s < bigR) :
    s + bigR * subMulMod x s t r < bigR * r ∧ s + bigR * subMulMod x s t r ≡ s [MOD bigR] ∧
      s + bigR * subMulMod x s t r ≡ x [MOD r] := by
  refine ⟨?_, ?_, ?_⟩
  · have h := subMulMod_lt x s t hr
    calc s + bigR * subMulMod x s t r < bigR + bigR * subMulMod x s t r := by omega
      _ = bigR * (subMulMod x s t r + 1) := by ring
      _ ≤ bigR * r := Nat.mul_le_mul_left _ h
  · unfold Nat.ModEq
    exact Nat.add_mul_mod_self_left s bigR _
  · rw [← Int.natCast_modEq_iff]
    push_cast
    have h1 : ((t : Int) * bigR) ≡ 1 [ZMOD r] := by
      have : t * bigR ≡ 1 [MOD r] := ht
      have := (Int.natCast_modEq_iff).2 this
      push_cast at this
      exact this
    calc (s : Int) + bigR * subMulMod x s t r
        ≡ s + bigR * (((x : Int) - s) * t) [ZMOD r] := ((subMulMod_modEq x s t hr).mul_left _).add_left _
      _ = s + (x - s) * (t * bigR) := by ring
      _ ≡ s + (x - s) * 1 [ZMOD r] := (h1.mul_left _).add_left _
      _ = x := by ring

/-- Exponents may be reduced modulo p - 1, as long as the reduced one is not 0. -/
theorem pow_mod_pred_prime {p : Nat} (hp : p.Prime) (m d : Nat) (h0 : d % (p - 1) ≠ 0) :
    m ^ (d % (p - 1)) ≡ m ^ d [MOD p] := by
  by_cases hm : p ∣ m
  · have hd : d ≠ 0 := fun h => h0 (by rw [h]; exact Nat.zero_mod _)
    have z : ∀ e, e ≠ 0 → m ^ e ≡ 0 [MOD p] := fun e he =>
      (Nat.modEq_zero_iff_dvd).2 (dvd_pow hm he)
    exact (z _ h0).trans (z _ hd).symm
  · have hc : Nat.Coprime m p := ((Nat.Prime.coprime_iff_not_dvd hp).2 hm).symm
    have hf : m ^ (p - 1) ≡ 1 [MOD p] := by
      have := Nat.ModEq.pow_totient hc
      rwa [Nat.totient_prime hp] at this
    conv_rhs => rw [← Nat.div_add_mod d (p - 1), Nat.pow_add, Nat.pow_mul]
    have := (hf.pow (d / (p - 1))).mul_right (m ^ (d % (p - 1)))
    rw [Nat.one_pow, Nat.one_mul] at this
    exact this.symm

end Sys2Proof.Machine
end

