-- ==== Sys2Proof/Laws/Session.lean ====
section
/-! SUPPORT. The laws of the session: chunks of a byte string, the per-block transform over lists, the partial block,
and what absorbing leaves (43_modes.md R205, R206). -/

namespace Sys2Proof.Machine

open Sys2Proof

/-! ## Chunks -/

@[simp] theorem length_chunks : ∀ (n : Nat) (x : Bytes), (chunks n x).length = n
  | 0, _ => rfl
  | n + 1, x => by rw [chunks, List.length_cons, length_chunks n]

/-- The first chunks do not see what follows them. -/
theorem chunks_append_left : ∀ (n : Nat) (x y : Bytes), 16 * n ≤ x.length → chunks n (x ++ y) = chunks n x
  | 0, _, _, _ => rfl
  | n + 1, x, y, h => by
    rw [chunks, chunks, List.take_append_of_le_length (by omega), List.drop_append_of_le_length (by omega),
      chunks_append_left n _ y (by simp; omega)]

/-- Chunks in two runs. -/
theorem chunks_add : ∀ (n m : Nat) (x : Bytes), chunks (n + m) x = chunks n x ++ chunks m (x.drop (16 * n))
  | 0, m, x => by simp [chunks]
  | n + 1, m, x => by
    rw [show n + 1 + m = (n + m) + 1 by omega, chunks, chunks, chunks_add n m, List.drop_drop, List.cons_append,
      show 16 + 16 * n = 16 * (n + 1) by omega]

/-- The chunks of a whole number of blocks are its bytes. -/
theorem flatMap_chunks : ∀ (n : Nat) (x : Bytes), x.length = 16 * n → (chunks n x).flatMap blockBytes = x
  | 0, x, h => by
    have : x = [] := List.eq_nil_of_length_eq_zero (by omega)
    subst this
    rfl
  | n + 1, x, h => by
    rw [chunks, List.flatMap_cons, flatMap_chunks n _ (by simp; omega), blockBytes_blockOfBytes (by simp; omega),
      List.take_append_drop]

/-- Cutting the bytes of blocks gives the blocks back. -/
theorem chunks_flatMap : ∀ bs : List Block, chunks bs.length (bs.flatMap blockBytes) = bs
  | [] => rfl
  | b :: bs => by
    rw [List.length_cons, chunks, List.flatMap_cons, List.take_append_of_le_length (by simp),
      List.take_of_length_le (by simp), blockOfBytes_blockBytes, List.drop_append_of_le_length (by simp),
      List.drop_of_length_le (by simp), List.nil_append, chunks_flatMap bs]

/-! ## The transform over lists -/

@[simp] theorem length_xformAll (dir : Dir) (cm : ChainMode) (w : Vector Quad 60) (nr : Nat) :
    ∀ (bs : List Block) (chain : Block), (xformAll dir cm w nr chain bs).1.length = bs.length
  | [], _ => rfl
  | b :: bs, chain => by
    simp only [xformAll, List.length_cons]
    rw [length_xformAll dir cm w nr bs]

/-- Transforming in two runs, the second with the chaining value the first one left (R205). -/
theorem xformAll_append (dir : Dir) (cm : ChainMode) (w : Vector Quad 60) (nr : Nat) :
    ∀ (bs cs : List Block) (chain : Block),
      xformAll dir cm w nr chain (bs ++ cs) =
        ((xformAll dir cm w nr chain bs).1 ++ (xformAll dir cm w nr (xformAll dir cm w nr chain bs).2 cs).1,
          (xformAll dir cm w nr (xformAll dir cm w nr chain bs).2 cs).2)
  | [], cs, chain => rfl
  | b :: bs, cs, chain => by
    simp only [List.cons_append, xformAll]
    rw [xformAll_append dir cm w nr bs cs]

/-! ## The partial block -/

@[simp] theorem length_buffered (s : State) : s.buffered.length = s.bufLen.toNat := by
  have := s.bufLen.isLt
  simp [State.buffered]
  omega

/-- The bytes put at the front of the buffer are the buffered bytes. -/
theorem take_overwriteBlock (b : Block) {x : Bytes} (h : x.length ≤ 16) :
    (blockBytes (overwriteBlock b x)).take x.length = x := by
  apply List.ext_getElem (by simp; omega)
  intro i h1 h2
  have hi : i < 16 := by omega
  have : blockByte (overwriteBlock b x) i = x.getD i (blockByte b i) := blockByte_blockOfFn _ i hi
  rw [blockByte, List.getD_eq_getElem?_getD, List.getD_eq_getElem?_getD, List.getElem?_eq_getElem h2,
    List.getElem?_eq_getElem (show i < (blockBytes _).length from hi)] at this
  rw [List.getElem_take]
  exact this

/-! ## Padding -/

/-- The padding block is the one chunk of the remainder followed by its padding (R207). -/
theorem padBlocks_eq (pad : Pad) (rest : Bytes) (h : rest.length < 16) (hn : ¬(pad = .none ∧ rest.length ≠ 0)) :
    padBlocks pad rest =
      chunks ((rest ++ paddingOf pad rest.length).length / 16) (rest ++ paddingOf pad rest.length) := by
  have one : ∀ v : Byte, chunks ((rest ++ List.replicate (16 - rest.length) v).length / 16)
      (rest ++ List.replicate (16 - rest.length) v) = [blockOfFn fun i => rest.getD i v] := by
    intro v
    have hl : (rest ++ List.replicate (16 - rest.length) v).length = 16 := by simp; omega
    rw [hl]
    simp only [chunks, show 16 / 16 = 0 + 1 from rfl]
    rw [List.take_of_length_le (by omega)]
    congr 1
    apply blockOfFn_congr
    intro i hi
    simp only [List.getD_eq_getElem?_getD]
    by_cases h2 : i < rest.length
    · rw [List.getElem?_append_left h2, List.getElem?_eq_getElem h2]
      rfl
    · rw [List.getElem?_append_right (by omega), List.getElem?_replicate, if_pos (by omega),
        List.getElem?_eq_none (show rest.length ≤ i by omega)]
      rfl
  cases pad with
  | none =>
    have h0 : rest = [] := List.eq_nil_of_length_eq_zero (by_contra fun h0 => hn ⟨rfl, h0⟩)
    subst h0
    rfl
  | zero =>
    simp only [padBlocks, paddingOf]
    split
    · rename_i h0
      have := List.eq_nil_of_length_eq_zero h0
      subst this
      rfl
    · exact (one 0).symm
  | pkcs7 =>
    simp only [padBlocks, paddingOf]
    exact (one _).symm

theorem outputBytes_append_blocks (bs : List Block) (q : List OutItem) :
    outputBytes (bs.map .block ++ q) = bs.flatMap blockBytes ++ outputBytes q := by
  induction bs with
  | nil => rfl
  | cons b bs ih => simp [outputBytes, ih]

theorem AesMode.nr_eq (m : AesMode) : m.nr = 10 + 2 * m.code.toNat := by
  cases m <;> rfl

/-! ## Absorbing -/

theorem toNat_ofNat_four (n : Nat) (h : n < 16) : (BitVec.ofNat 4 n).toNat = n := by
  rw [BitVec.toNat_ofNat]
  exact Nat.mod_eq_of_lt h

/-- `BUFLEN` after absorbing. -/
theorem State.absorb_bufLen_toNat (s : State) (x : Bytes) :
    (s.absorb x).bufLen.toNat = (s.bufLen.toNat + x.length) % 16 := by
  simp only [State.absorb]
  rw [toNat_ofNat_four]
  · simp
    omega
  · simp only [List.length_drop, List.length_append, length_buffered]
    omega

/-- The buffered bytes after absorbing: what is left behind the last complete chunk. -/
theorem State.absorb_buffered (s : State) (x : Bytes) :
    (s.absorb x).buffered = (s.buffered ++ x).drop (16 * ((s.buffered ++ x).length / 16)) := by
  have h : ((s.buffered ++ x).drop (16 * ((s.buffered ++ x).length / 16))).length ≤ 15 := by
    rw [List.length_drop]
    omega
  rw [State.buffered, State.absorb_bufLen_toNat]
  have e : (s.bufLen.toNat + x.length) % 16 =
      ((s.buffered ++ x).drop (16 * ((s.buffered ++ x).length / 16))).length := by
    simp only [List.length_drop, List.length_append, length_buffered]
    omega
  rw [e]
  exact take_overwriteBlock s.buf (by omega)

end Sys2Proof.Machine
end

