-- ==== Sys2Proof/Tests/Slice0.lean ====
section
/-! SUPPORT. Tests: words of spec/30_encoding.md R107 and R105, results of spec/95_test_vectors.md (the vector is named at
each test), and for every statement with hypotheses a witness that meets them. -/

namespace Sys2Proof.Tests

open Sys2Proof Sys2Proof.Machine

set_option Elab.async false

/-! ## Helpers -/

/-- n bytes written as hex digits, first byte first (00_scope.md R12). -/
def hex (n v : Nat) : Bytes := (List.range n).map fun i => BitVec.ofNat 8 (v >>> (8 * (n - 1 - i)))

/-- `fill` of a window at an offset, without the bus. -/
def fillAt (s : State) (off : Nat) (x : Bytes) : State := { s with mem := Memory.writeBytes s.mem off x }

/-- `DBUF` filled from reset. -/
def dbufIs (x : Bytes) : State := fillAt State.reset dbufBase x

/-- Bignum registers loaded. -/
def withBns (s : State) (l : List (BitVec 6 × Nat)) : State := l.foldl (fun s x => s.putBn x.1 x.2) s

/-- The state after a command. -/
def after (i : Instr) (s : State) : State :=
  match exec i s with
  | .next t => t
  | .fault _ => s
  | .refused _ => s

/-- The state after a step. -/
def stepped (s : State) : State :=
  match step s with
  | .next t => t
  | .fault _ => s
  | .refused _ => s

/-- Every command answers a next state. -/
theorem exec_after (i : Instr) (s : State) : exec i s = .next (after i s) := by
  obtain ⟨t, ht⟩ := finish_runs i s (ruleOf i s)
  rw [← exec_eq] at ht
  simp [after, ht]

/-- A step that answers a next state. -/
theorem step_stepped {s t : State} (h : step s = .next t) : step s = .next (stepped s) := by
  simp [stepped, h]

/-- A command completes without an exception from a state without one. -/
def succeeds (i : Instr) (s : State) : Bool := (after i s).done && !(after i s).err

/-- A command raises an exception of a given code, records its word, leaves `DONE` and stores nothing. -/
def raises (i : Instr) (s : State) (code : BitVec 8) : Bool :=
  let t := after i s
  t.err && t.errcode == code && t.errcmd == encode i && t.done == s.done && t.dlen == s.dlen

/-! ## Decoding: words of 30_encoding.md R104, R105, R107, one for every constructor -/

theorem test_decode_aes :
    decodeTableWord 32 0x00000000 = some .nop ∧
    decodeTableWord 32 0x00000201 = some (.aesKeyexp 2) ∧
    decodeTableWord 32 0x00100002 = some (.aesEncb 16) ∧
    decodeTableWord 32 0x00100003 = some (.aesDecb 16) ∧
    decodeTableWord 32 0x00000A04 = some (.sesInit .encrypt .cbc 2) ∧
    decodeTableWord 32 0x00000304 = some (.sesInit .decrypt .cbc 0) ∧
    decodeTableWord 32 0x00280005 = some (.sesUpdate 40) ∧
    decodeTableWord 32 0x00400006 = some (.sesFinal 64) := by decide

theorem test_decode_gf :
    decodeTableWord 32 0x00020008 = some (.gfMul 2) ∧
    decodeTableWord 32 0x00100009 = some (.stSubbytes 16) ∧
    decodeTableWord 32 0x0010000A = some (.stInvsubbytes 16) ∧
    decodeTableWord 32 0x0010000B = some (.stShiftrows 16) ∧
    decodeTableWord 32 0x0010000C = some (.stInvshiftrows 16) ∧
    decodeTableWord 32 0x0010000D = some (.stMixcolumns 16) ∧
    decodeTableWord 32 0x0010000E = some (.stInvmixcolumns 16) ∧
    decodeTableWord 32 0x00100A0F = some (.stAddroundkey 10 16) := by decide

theorem test_decode_rsa :
    decodeTableWord 32 0x00011810 = some (.bnLd 24 1) ∧
    decodeTableWord 32 0x00020911 = some (.bnSt 9 2) ∧
    decodeTableWord 32 0x00000112 = some (.rsaSp1 .multiPrime) ∧
    decodeTableWord 32 0x00000013 = some .rsaVp1 ∧
    decodeTableWord 32 0x00400414 = some (.emsaEnc 4 64) ∧
    decodeTableWord 32 0x00001415 = some (.pkcsSign 4 .multiPrime) ∧
    decodeTableWord 32 0x00400416 = some (.pkcsVerify 4 64) := by decide

theorem test_decode_der :
    decodeTableWord 32 0x00000018 = some .derLenenc ∧
    decodeTableWord 32 0x00030019 = some (.derLendec 3) ∧
    decodeTableWord 32 0x0000001A = some .oidEnc ∧
    decodeTableWord 32 0x000B001B = some (.oidDec 11) ∧
    decodeTableWord 32 0x0000041C = some (.algidEnc 4) ∧
    decodeTableWord 32 0x0000041D = some (.oidLdalg 4) := by decide

/-- V80, V7, V13, V24, V32, V60, V66: words that are IllegalCommand. -/
theorem test_decode_refuses :
    ∀ c ∈ [0x00000007, 0x00000017, 0x0000001E, 0x000000FF, 0xFFFFFFFF, 0x00000100, 0x00010000, 0x00000108, 0x00010013,
      0x0000011A, 0x00010001, 0x00000401, 0x0010100F, 0x00000C04, 0x00001004, 0x00010004, 0x00000105, 0x00020211,
      0x00020A10, 0x00021910, 0x00024010, 0x00000212, 0x00010012, 0x00000113, 0x00002415, 0x00010415, 0x00401416,
      0x00000118, 0x00010018, 0x0000101C], decodeTableWord 32 c = none := by decide

/-- Each reason of R105 by its name. -/
theorem test_decode_reasons :
    decode Config.reference 0x00000007 = .error .reservedOpcode ∧
    decode Config.reference 0x00000100 = .error .unusedANonzero ∧
    decode Config.reference 0x00010001 = .error .unusedLNonzero ∧
    decode Config.reference 0x00000401 = .error .unusedABitSet ∧
    decode Config.reference 0x00000C04 = .error .reservedPad ∧
    decode Config.reference 0x00020211 = .error .reservedRegister := by
  refine ⟨?_, ?_, ?_, ?_, ?_, ?_⟩ <;> rfl

/-! ## WellFormed: an ill-formed term for each check -/

theorem test_wellFormed_refuses_pad :
    (Instr.sesInit .encrypt .ecb 3).wellFormed Config.reference = false ∧
    (Instr.sesInit .encrypt .ecb 2).wellFormed Config.reference = true := by decide

theorem test_wellFormed_refuses_load_register :
    (Instr.bnLd 10 0).wellFormed Config.reference = false ∧ (Instr.bnLd 15 0).wellFormed Config.reference = false ∧
    (Instr.bnLd 25 0).wellFormed Config.reference = false ∧ (Instr.bnLd 63 0).wellFormed Config.reference = false ∧
    (Instr.bnLd 24 0).wellFormed Config.reference = true := by decide

theorem test_wellFormed_refuses_store_register :
    (Instr.bnSt 2 0).wellFormed Config.reference = false ∧ (Instr.bnSt 16 0).wellFormed Config.reference = false ∧
    (Instr.bnSt 9 0).wellFormed Config.reference = true := by decide

/-! ## AES: V1, V4, V7 -/

/-- The key 00 01 02 .. of n bytes in `KEY`, expanded, and a block in `DBUF`. -/
def keyed (n : Nat) (ks : BitVec 2) (block : Nat) : State :=
  fillAt (after (.aesKeyexp ks) (fillAt State.reset keyBase ((List.range n).map (BitVec.ofNat 8)))) dbufBase
    (hex 16 block)

def plain : Nat := 0x00112233445566778899aabbccddeeff

theorem test_keyexp_aes128 :
    (let t := keyed 16 0 0
     roundKey t.w 1 = blockOfBytes (hex 16 0xd6aa74fdd2af72fadaa678f1d6ab76fe) ∧
     roundKey t.w 10 = blockOfBytes (hex 16 0x13111d7fe3944a17f307a78b4d2b30c5) ∧
     roundKey t.w 11 = Block.zero ∧ t.statusWord = 0x0000000A) := by decide +kernel

theorem test_keyexp_aes256 :
    (let t := keyed 32 2 0
     t.scheduleWord 8 = ⟨0xa5, 0x73, 0xc2, 0x9f⟩ ∧ t.scheduleWord 12 = ⟨0x16, 0x51, 0xa8, 0xcd⟩ ∧
     roundKey t.w 14 = blockOfBytes (hex 16 0x24fc79ccbf0979e9371ac23c6d68de36)) := by decide +kernel

theorem test_encb_aes128 :
    (let t := after (.aesEncb 16) (keyed 16 0 plain)
     t.dbuf 16 = hex 16 0x69c4e0d86a7b0430d8cdb78070b4c55a ∧ t.dlen = 16 ∧ t.statusWord = 0x0000000A) := by
  decide +kernel

theorem test_decb_aes256 :
    (after (.aesDecb 16) (keyed 32 2 0x8ea2b7ca516745bfeafc49904b496089)).dbuf 16 = hex 16 plain := by decide +kernel

/-- V7: the length before the key. -/
theorem test_encb_checks :
    raises (.aesEncb 16) State.reset 0x07 = true ∧ raises (.aesEncb 15) State.reset 0x02 = true ∧
    raises (.aesDecb 17) State.reset 0x02 = true ∧ raises (.aesKeyexp 3) State.reset 0x02 = true ∧
    (after (.aesEncb 16) State.reset).statusWord = 0x00000004 := by decide +kernel

/-! ## GF(2^8) and State primitives: V10, V12, V13 -/

theorem test_gfMul :
    ((after (.gfMul 2) (dbufIs [0x57, 0x83])).dbuf 2 = [0xc1, 0x83] ∧
     (after (.gfMul 2) (dbufIs [0x57, 0x83])).dlen = 1 ∧ gfmul 0x0e 0x0b = 0x62 ∧ gfmul 0x53 0xca = 0x01) ∧
    raises (.gfMul 1) State.reset 0x02 = true ∧ raises (.gfMul 3) State.reset 0x02 = true := by decide +kernel

def counting : State := dbufIs (hex 16 0x000102030405060708090a0b0c0d0e0f)

theorem test_st_commands :
    (after (.stSubbytes 16) counting).dbuf 16 = hex 16 0x637c777bf26b6fc53001672bfed7ab76 ∧
    (after (.stInvsubbytes 16) counting).dbuf 16 = hex 16 0x52096ad53036a538bf40a39e81f3d7fb ∧
    (after (.stShiftrows 16) counting).dbuf 16 = hex 16 0x00050a0f04090e03080d02070c01060b ∧
    (after (.stInvshiftrows 16) counting).dbuf 16 = hex 16 0x000d0a0704010e0b0805020f0c090603 ∧
    (after (.stMixcolumns 16) counting).dbuf 16 = hex 16 0x02070005060304010a0f080d0e0b0c09 ∧
    (after (.stInvmixcolumns 16) counting).dbuf 16 = hex 16 0x0a0f080d0e0b0c090207000506030401 ∧
    raises (.stSubbytes 15) counting 0x02 = true := by decide +kernel

theorem test_addroundkey :
    (after (.stAddroundkey 0 16) (keyed 16 0 plain)).dbuf 16 = hex 16 0x00102030405060708090a0b0c0d0e0f0 ∧
    (after (.stAddroundkey 10 16) (keyed 16 0 0)).dbuf 16 = hex 16 0x13111d7fe3944a17f307a78b4d2b30c5 := by
  decide +kernel

theorem test_addroundkey_checks :
    raises (.stAddroundkey 11 16) (keyed 16 0 0) 0x02 = true ∧ succeeds (.stAddroundkey 11 16) (keyed 24 1 0) = true ∧
    raises (.stAddroundkey 11 16) State.reset 0x07 = true ∧ raises (.stAddroundkey 0 15) State.reset 0x02 = true := by
  decide +kernel

/-! ## Sessions: V20, V22, V23, V24, V25 -/

/-- Section 4's key and `IV`, a session started, and the input in `DBUF`. -/
def session (dir : Dir) (chain : ChainMode) (pad : BitVec 2) (input : Bytes) : State :=
  fillAt (after (.sesInit dir chain pad) (after (.aesKeyexp 0)
    (fillAt (fillAt State.reset ivBase (hex 16 0x000102030405060708090a0b0c0d0e0f)) keyBase
      (hex 16 0x2b7e151628aed2a6abf7158809cf4f3c)))) dbufBase input

def item (v : Nat) : OutItem := .block (blockOfBytes (hex 16 v))

/-- V22's 40 bytes. -/
def forty : Bytes :=
  hex 40 0x6bc1bee22e409f96e93d7e117393172aae2d8a571e03ac9c9eb76fac45af8e5130c81c46a35ce411

def fortyOut : List OutItem :=
  [item 0x7649abac8119b246cee98e9b12e9197d, item 0x5086cb9b507219ee95db113a917678b2,
   item 0x5caca76145cffc65f7483608c531aef1, .endMark]

theorem test_sesInit :
    (let t := session .encrypt .cbc 2 []
     t.statusWord = 0x0000029A ∧ t.chain = blockOfBytes (hex 16 0x000102030405060708090a0b0c0d0e0f)) ∧
    raises (.sesInit .encrypt .ecb 0) State.reset 0x07 = true := by decide +kernel

/-- V22 in three pieces. -/
theorem test_sesUpdate_in_pieces :
    (let t := after (.sesUpdate 5) (session .encrypt .cbc 2 (forty.take 5))
     let u := after (.sesUpdate 20) (fillAt t dbufBase ((forty.drop 5).take 20))
     let v := after (.sesFinal 15) (fillAt u dbufBase (forty.drop 25))
     t.bufLen = 5 ∧ t.outq = [] ∧ u.bufLen = 9 ∧ u.outq = fortyOut.take 1 ∧ v.outq = fortyOut ∧
     v.statusWord = 0x000002AA ∧ v.outstatWord = 0x00000401 ∧
     raises (.sesUpdate 1) v 0x02 = true) := by decide +kernel

/-- V20's third row, the first block. -/
theorem test_sesFinal_decrypts :
    (after (.sesFinal 16) (session .decrypt .cbc 0 (hex 16 0x7649abac8119b246cee98e9b12e9197d))).outq =
      [item 0x6bc1bee22e409f96e93d7e117393172a, .endMark] := by decide +kernel

/-- V23. -/
theorem test_padding :
    (after (.sesFinal 0) (session .encrypt .ecb 1 [])).outq = [.endMark] ∧
    (after (.sesFinal 15) (session .encrypt .ecb 2 (forty.take 15))).outq =
      [item 0x21ea2ba3e445a0ef710a7c26618d1975, .endMark] ∧
    raises (.sesFinal 1) (session .encrypt .ecb 0 []) 0x02 = true := by decide +kernel

/-- V24, V25: phase and capacity. -/
theorem test_session_checks :
    raises (.sesUpdate 0) State.reset 0x02 = true ∧ raises (.sesFinal 0) State.reset 0x02 = true ∧
    (let full := { session .encrypt .ecb 0 [] with outq := List.replicate 128 (item 0) }
     raises (.sesUpdate 16) full 0x0A = true ∧ (after (.sesUpdate 15) full).bufLen = 15 ∧
     raises (.sesFinal 0) full 0x0A = true ∧ succeeds (.sesFinal 0) full.popOutput = true ∧
     raises (.sesUpdate 1025) full 0x02 = true ∧ raises (.aesKeyexp 0) full 0x02 = true) := by decide +kernel

/-! ## Big integers: V30 to V33 -/

theorem test_bnLd :
    (let t := after (.bnLd 0 2) (dbufIs [0x0c, 0xa1])
     t.bnVal 0 = 3233 ∧ t.bnValid 0 = true ∧ t.bnValid 1 = false) ∧
    (after (.bnLd 24 4) (dbufIs [0xff, 0xff, 0xff, 0xff])).bnVal 24 = 4294967295 ∧
    (after (.bnLd 0 0) State.reset).bnValid 0 = true ∧ raises (.bnLd 0 513) State.reset 0x02 = true := by
  decide +kernel

theorem test_bnSt :
    (let s := withBns State.reset [(9, 2600)]
     (after (.bnSt 9 4) s).dbuf 4 = [0x00, 0x00, 0x0a, 0x28] ∧ (after (.bnSt 9 4) s).dlen = 4 ∧
     raises (.bnSt 9 1) s 0x08 = true) ∧
    raises (.bnSt 9 2) State.reset 0x07 = true ∧ raises (.bnSt 9 2000) State.reset 0x02 = true ∧
    succeeds (.bnSt 9 0) (withBns State.reset [(9, 0)]) = true ∧
    raises (.bnSt 9 0) (withBns State.reset [(9, 1)]) 0x08 = true := by decide +kernel

/-! ## RSA: V40, V41, V43, V44 -/

/-- V40's key with both forms of the private key. -/
def smallKey (m : Nat) : State :=
  withBns State.reset [(0, 3233), (1, 17), (2, 413), (3, 61), (4, 53), (5, 53), (6, 49), (7, 38), (8, m)]

/-- V41's three-prime key. -/
def threePrimes (m : Nat) : State :=
  { withBns State.reset [(0, 151951), (1, 17), (2, 10553), (3, 61), (4, 53), (5, 53), (6, 49), (7, 38), (8, m),
      (16, 47), (17, 19), (18, 14)] with nap := 1 }

theorem test_rsaSp1 :
    (after (.rsaSp1 .pair) (smallKey 98)).bnVal 9 = 2600 ∧ (after (.rsaSp1 .multiPrime) (smallKey 98)).bnVal 9 = 2600 ∧
    (after (.rsaSp1 .multiPrime) (smallKey 1000)).bnVal 9 = 2951 ∧
    (after (.rsaSp1 .multiPrime) (threePrimes 98)).bnVal 9 = 34930 ∧
    (after (.rsaSp1 .multiPrime) (threePrimes 12345)).bnVal 9 = 92509 ∧
    (after (.rsaSp1 .multiPrime) ((smallKey 98).putBn 7 1)).bnVal 9 = 1858 ∧
    (after (.rsaSp1 .pair) ((smallKey 0).putBn 2 0)).bnVal 9 = 1 := by decide +kernel

theorem test_rsaSp1_checks :
    raises (.rsaSp1 .pair) (smallKey 3233) 0x03 = true ∧ succeeds (.rsaSp1 .pair) (smallKey 3232) = true ∧
    raises (.rsaSp1 .pair) State.reset 0x07 = true ∧
    raises (.rsaSp1 .multiPrime) { smallKey 98 with nap := 4 } 0x07 = true ∧
    raises (.rsaSp1 .multiPrime) { smallKey 98 with nap := 1 } 0x07 = true := by decide +kernel

theorem test_rsaVp1 :
    (after .rsaVp1 ((smallKey 0).putBn 9 2600)).bnVal 8 = 98 ∧
    raises .rsaVp1 ((smallKey 0).putBn 9 3233) 0x03 = true ∧ raises .rsaVp1 State.reset 0x07 = true := by
  decide +kernel

/-- V45: a result too large for a register. -/
theorem test_rsaSp1_too_large :
    (let s := withBns State.reset [(0, 5), (3, 5), (4, 2 ^ 4095), (5, 1), (6, 0), (7, 1)]
     raises (.rsaSp1 .multiPrime) (s.putBn 8 3) 0x07 = true ∧
     (after (.rsaSp1 .multiPrime) (s.putBn 8 2)).bnVal 9 = 2 ^ 4095 + 1 ∧
     raises (.rsaSp1 .multiPrime) (s.putBn 8 5) 0x03 = true) := by decide +kernel

/-! ## DER: V50 to V55 -/

theorem test_derLenenc :
    ∀ x ∈ [(0, [0x00#8]), (127, [0x7f]), (128, [0x81, 0x80]), (255, [0x81, 0xff]), (256, [0x82, 0x01, 0x00]),
      (65536, [0x83, 0x01, 0x00, 0x00]), (2147483647, [0x84, 0x7f, 0xff, 0xff, 0xff])],
      (after .derLenenc { State.reset with arg0 := BitVec.ofNat 32 x.1 }).dbuf x.2.length = x.2 ∧
      (after .derLenenc { State.reset with arg0 := BitVec.ofNat 32 x.1 }).dlen.toNat = x.2.length := by decide +kernel

theorem test_derLenenc_checks : raises .derLenenc { State.reset with arg0 := 0x80000000 } 0x02 = true := by
  decide +kernel

theorem test_derLendec :
    (let t := after (.derLendec 4) (dbufIs [0x82, 0x01, 0x00, 0xaa])
     t.res0 = 256 ∧ t.res1 = 3) ∧
    (let t := after (.derLendec 5) (dbufIs [0x84, 0x7f, 0xff, 0xff, 0xff])
     t.res0 = 2147483647 ∧ t.res1 = 5) := by decide +kernel

theorem test_derLendec_errors :
    ∀ x ∈ [[], [0x80#8], [0x81, 0x00], [0x81, 0x7f], [0x82, 0x00, 0x80], [0x82, 0x01],
      [0x84, 0x80, 0x00, 0x00, 0x00], [0x85, 0x01, 0x00, 0x00, 0x00, 0x00], [0xff]],
      raises (.derLendec (BitVec.ofNat 16 x.length)) (dbufIs x) 0x09 = true := by decide +kernel

/-- The components of an identifier in `OIDV`. -/
def oidIs (o : List Nat) : State := State.reset.putOid o

theorem test_oidEnc :
    ∀ x ∈ [([1, 2], hex 3 0x06012a), ([0, 0], hex 3 0x060100), ([2, 175], hex 3 0x0601ff),
      ([1, 2, 840, 113549, 1, 1, 11], hex 11 0x06092a864886f70d01010b),
      ([1, 2, 127, 128, 16383, 16384, 4294967295], hex 16 0x060e2a7f8100ff7f8180008fffffff7f)],
      (after .oidEnc (oidIs x.1)).dbuf x.2.length = x.2 ∧ (after .oidEnc (oidIs x.1)).dlen.toNat = x.2.length := by
  decide +kernel

theorem test_oidEnc_checks :
    (∀ o ∈ [[], [1], [2, 176], [1, 40], [0, 40], [3, 1], [2, 999, 3]], raises .oidEnc (oidIs o) 0x02 = true) ∧
    raises .oidEnc { oidIs [1, 2] with oidn := 17 } 0x02 = true := by decide +kernel

theorem test_oidDec :
    (let t := after (.oidDec 13) (dbufIs (hex 13 0x06092a864886f70d01010bffff))
     t.oidn = 7 ∧ t.components = [1, 2, 840, 113549, 1, 1, 11] ∧ t.res0 = 7 ∧ t.res1 = 11) ∧
    (after (.oidDec 8) (dbufIs (hex 8 0x06062a8fffffff7f))).components = [1, 2, 4294967295] ∧
    (after (.oidDec 3) (dbufIs (hex 3 0x06017f))).components = [2, 47] := by decide +kernel

theorem test_oidDec_errors :
    ∀ x ∈ [[], hex 3 0x05012a, hex 2 0x0600, hex 5 0x06092a8648, hex 4 0x06022a86, hex 5 0x06032a8001,
      hex 8 0x06062a9080808000, hex 12 0x0681092a864886f70d01010b, hex 3 0x06102a ++ List.replicate 15 0x01],
      raises (.oidDec (BitVec.ofNat 16 x.length)) (dbufIs x) 0x09 = true := by decide +kernel

theorem test_algidEnc :
    (after (.algidEnc 4) State.reset).dbuf 15 = hex 15 0x300d06096086480165030402010500 ∧
    (after (.algidEnc 4) State.reset).dlen = 15 ∧ raises (.algidEnc 9) State.reset 0x06 = true := by decide +kernel

theorem test_oidLdalg :
    (let t := after (.oidLdalg 4) State.reset
     t.components = [2, 16, 840, 1, 101, 3, 4, 2, 1] ∧ t.oidn = 9 ∧ t.res0 = 32 ∧ t.res1 = 0) ∧
    raises (.oidLdalg 15) State.reset 0x06 = true := by decide +kernel

/-! ## PKCS #1: V60 to V66, V70 -/

/-- SHA-256("abc"). -/
def h256 : Nat := 0xba7816bf8f01cfea414140de5dae2223b00361a396177a9cb410ff61f20015ad

def digest (n : Nat) (h : Nat) : State := { fillAt State.reset hbufBase (hex n h) with hlen := BitVec.ofNat 7 n }

theorem test_emsaEnc :
    (let t := after (.emsaEnc 4 64) (digest 32 h256)
     t.dbuf 64 = hex 64 (0x0001ffffffffffffffffffffffffffff00300d06096086480165030402010500 * 2 ^ 256 + h256) ∧
     t.dlen = 64) ∧
    (after (.emsaEnc 4 26) State.reset).dbuf 26 = hex 26 0x0001ffffffffffffffff00300d06096086480165030402010500 ∧
    (after (.emsaEnc 2 46) { digest 20 0xa9993e364706816aba3e25717850c26c9cd0d89d with
        cfg := { Config.reference with emsaTForm := .digestInfo } }).dbuf 46 =
      hex 46 0x0001ffffffffffffffff003021300906052b0e03021a05000414a9993e364706816aba3e25717850c26c9cd0d89d := by
  decide +kernel

theorem test_emsaEnc_checks :
    raises (.emsaEnc 4 57) (digest 32 h256) 0x05 = true ∧ succeeds (.emsaEnc 4 58) (digest 32 h256) = true ∧
    raises (.emsaEnc 4 10) (digest 33 0) 0x04 = true ∧ raises (.emsaEnc 4 2000) (digest 33 0) 0x02 = true ∧
    raises (.emsaEnc 9 2000) (digest 33 0) 0x06 = true := by decide +kernel

/-- Section 8's key T512 with H256. -/
def t512 : State :=
  withBns (digest 32 h256)
    [(0, 0xb355660110eed599cbe0a7c5e976d3150436fc4722e7c0a454ad9c4d79dd5a12c8e34d14bd86a647f6072f2f6b96d4107b53015eb718311ac44d4c2c4fa2f359),
     (1, 0x010001),
     (2, 0x161412f959a0d5da57efe227eb0cce82fd6059a1d669cadd507189573e8422750d9607fda19e4828e420afaf779a019532655ab4603ab893bae500548f7d3003),
     (3, 0xec0517897188697e0c3bee8367e9f0f76ad83aa04884937a955dbbef24200173),
     (4, 0xc283d41dfd4314401387b57da2619b1582f01ac0d04bfab3cad7693a1d299503),
     (5, 0x8367b25b0ba2ef590666b7bce1b6163b2a7988ea84758bc6cc328bd7f13d0091),
     (6, 0x5fda24a1ee96aa98f4c6d039abd61b5d1b5c0462f5822b7583c468d7395daf4f),
     (7, 0xd30694f9bed3c183be02dcff933a477f5950e9a7fe18337b8048a3b9b096766d)]

def s256 : Nat := 0x640d9d3308dec63568f21e979d02eb3321ac6f1f58a659e4cecfaad41d372e1310bf0abc7d2a5979f6d42571cb96221fe74248ccc996d15aa97b1146af6f3097

theorem test_pkcsSign :
    (after (.pkcsSign 4 .pair) t512).dbuf 64 = hex 64 s256 ∧ (after (.pkcsSign 4 .pair) t512).dlen = 64 ∧
    (after (.pkcsSign 4 .multiPrime) t512).dbuf 64 = hex 64 s256 := by decide +kernel

theorem test_pkcsSign_checks :
    raises (.pkcsSign 5 .pair) { t512 with hlen := 48 } 0x05 = true ∧ raises (.pkcsSign 4 .pair) { t512 with hlen := 33 } 0x04 = true ∧
    raises (.pkcsSign 4 .pair) { State.reset with hlen := 33 } 0x07 = true ∧
    raises (.pkcsSign 9 .pair) State.reset 0x06 = true := by decide +kernel

theorem test_pkcsVerify :
    (let t := after (.pkcsVerify 4 64) (fillAt t512 dbufBase (hex 64 s256))
     t.res0 = 1 ∧ t.res1 = 0 ∧ t.statusWord = 0x00000002) ∧
    (after (.pkcsVerify 4 64) (fillAt t512 dbufBase (hex 64 (s256 - 1)))).res0 = 0 ∧
    (after (.pkcsVerify 8 64) (fillAt t512 dbufBase (hex 64 s256))).res0 = 0 ∧
    succeeds (.pkcsVerify 4 65) (fillAt t512 dbufBase (hex 65 s256)) = true ∧
    (after (.pkcsVerify 4 64) (fillAt t512 dbufBase (List.replicate 64 0xff))).res0 = 0 := by decide +kernel

theorem test_pkcsVerify_checks :
    raises (.pkcsVerify 12 2000) State.reset 0x06 = true ∧ raises (.pkcsVerify 4 1025) State.reset 0x02 = true ∧
    raises (.pkcsVerify 4 64) State.reset 0x07 = true := by decide +kernel

/-! ## Witnesses: for each statement a state and operands that meet its hypotheses, clause by clause -/

/-- Every step answers a next state. -/
theorem step_next (s : State) : step s = .next (stepped s) := by
  suffices h : ∃ t, step s = .next t by obtain ⟨t, h⟩ := h; exact step_stepped h
  have hm : ∀ s : State, ∃ t, engineMoment s = .next t := fun s => by
    unfold engineMoment
    split
    · exact ⟨s, rfl⟩
    · exact (commit_next _ s).imp fun t h => h.1
  unfold step moveOn
  split
  · exact hm s
  · exact ⟨_, rfl⟩
  · exact hm _
  · split
    · exact ⟨_, rfl⟩
    · split
      · exact ⟨_, rfl⟩
      · exact (commit_next _ s).imp fun t h => h.1

/-- A command running, with an agenda. -/
def running (c : Word) (es : List Event) : State := { State.reset with engine := .running c, agenda := es }

/-- An idle machine with an agenda. -/
def awaiting (es : List Event) : State := { State.reset with agenda := es }

/-- A key schedule of zero words, valid. -/
def k0 : State := { State.reset with kvalid := true }

/-- A session under it. -/
def active (pad : Pad) : State := { k0 with phase := .active, pad := pad }

theorem witness_O4 :
    decode Config.reference 0 = .ok .nop ∧ (running 0 [.engine]).engine = .running 0 ∧
    (running 0 [.engine]).agenda = [.engine] ∧ (running 0 []).agenda = [] ∧
    (∀ a ∈ [Access.read 0x0C .word, .read 0x07 .byte, .write 0x08 .word 0],
      (running 0 [.host a]).agenda = [.host a] ∧ a.answeredWhileBusy (running 0 [.host a]).cfg = false) :=
  ⟨rfl, rfl, rfl, rfl, by decide⟩

theorem witness_O5 :
    (running 7 [.engine]).engine = .running 7 ∧ (running 7 [.engine]).agenda = [.engine] ∧
    ∀ i, decode (running 7 [.engine]).cfg 7 ≠ .ok i :=
  ⟨rfl, rfl, fun i h => by rw [show (running 7 [.engine]).cfg = Config.reference from rfl, test_decode_reasons.1] at h; cases h⟩

theorem witness_O6 :
    ∀ e, ({ awaiting [.host (.write 0x04 .word 1)] with err := e } : State).engine = .idle ∧
      ({ awaiting [.host (.write 0x04 .word 1)] with err := e } : State).agenda =
        [.host (.write (Config.reference.base + 0x04) .word 1)] := fun _ => ⟨rfl, rfl⟩

theorem witness_O7 :
    let a := Access.write 0x04 .word 0
    (running 0 [.host a]).engine = .running 0 ∧ (running 0 [.host a]).agenda = [.host a] ∧
      a.answeredWhileBusy (running 0 [.host a]).cfg = false := ⟨rfl, rfl, rfl⟩

theorem witness_O8 :
    let s := running 0 [.host (.read 0x08 .word)]
    s.engine = .running 0 ∧ s.agenda = [.host (.read (s.cfg.base + 0x08) .word)] := ⟨rfl, rfl⟩

theorem witness_O9 :
    ({ t512 with agenda := [.reset] } : State).agenda = [.reset] ∧
    (let s := { t512 with agenda := [.host (.write 0x14 .word 7)] }
     s.engine = .idle ∧ s.agenda = [.host (.write (s.cfg.base + 0x14) .word 7)] ∧ (7 : Word).getLsbD 2 = true) :=
  ⟨rfl, rfl, rfl, rfl⟩

theorem witness_O10 :
    ∀ n ∈ [0, 1, 2, 3, 8, 0xFFFFFFFB],
      (awaiting [.host (.write 0x14 .word (BitVec.ofNat 32 n))]).engine = .idle ∧
      (awaiting [.host (.write 0x14 .word (BitVec.ofNat 32 n))]).agenda =
        [.host (.write (Config.reference.base + 0x14) .word (BitVec.ofNat 32 n))] ∧
      (BitVec.ofNat 32 n).getLsbD 2 = false := by decide +kernel

/-- A word that does not decode, and a command that raises. -/
theorem witness_O11 :
    (∀ c, (running c [.engine]).engine = .running c ∧ (running c [.engine]).agenda = [.engine] ∧
      (running c [.engine]).err = false ∧ step (running c [.engine]) = .next (stepped (running c [.engine]))) ∧
    (stepped (running 0x00000007 [.engine])).err = true ∧ (stepped (running 0x00100002 [.engine])).err = true :=
  ⟨fun c => ⟨rfl, rfl, rfl, step_next _⟩, by decide +kernel, by decide +kernel⟩

theorem witness_O12 :
    (Instr.aesEncb 16).wellFormed State.reset.cfg = true ∧
    firstFailing (checks (.aesEncb 16) State.reset) = some .invalidKey ∧
    firstFailing (checks (.aesEncb 16) k0) = none := by decide

theorem witness_O14 :
    (∀ i ∈ [Instr.gfMul 2, .stSubbytes 16, .stInvsubbytes 16, .stShiftrows 16, .stInvshiftrows 16, .stMixcolumns 16,
      .stInvmixcolumns 16, .stAddroundkey 10 16, .aesEncb 16, .aesDecb 16],
      exec i k0 = .next (after i k0) ∧ succeeds i k0 = true) ∧
    exec (.aesEncb 15) k0 = .next (after (.aesEncb 15) k0) ∧ raises (.aesEncb 15) k0 0x02 = true :=
  ⟨fun i hi => ⟨exec_after i k0, by revert i; decide +kernel⟩, exec_after _ _, by decide +kernel⟩

theorem witness_O15 :
    (∀ x ∈ [(Instr.bnSt 9 2, smallKey 98 |>.putBn 9 2600), (.emsaEnc 4 58, t512), (.pkcsSign 4 .pair, t512),
      (.pkcsSign 4 .multiPrime, t512), (.derLenenc, State.reset), (.oidEnc, oidIs [2, 175]), (.algidEnc 8, State.reset)],
      succeeds x.1 x.2 = true) ∧
    ∀ i s, exec i s = .next (after i s) := ⟨by decide +kernel, exec_after⟩

theorem witness_O16 :
    succeeds (.aesKeyexp 2) State.reset = true ∧ succeeds (.sesInit .decrypt .cbc 2) k0 = true ∧
    succeeds (.sesUpdate 17) (active .none) = true ∧ succeeds (.sesFinal 17) (active .zero) = true ∧
    ∀ i s, exec i s = .next (after i s) := ⟨by decide +kernel, by decide +kernel, by decide +kernel, by decide +kernel, exec_after⟩

theorem witness_O17 :
    succeeds (.bnLd 24 512) State.reset = true ∧ succeeds (.rsaSp1 .pair) (smallKey 98) = true ∧
    succeeds (.rsaSp1 .multiPrime) (threePrimes 98) = true ∧ succeeds .rsaVp1 ((smallKey 98).putBn 9 2600) = true ∧
    ∀ i s, exec i s = .next (after i s) := ⟨by decide +kernel, by decide +kernel, by decide +kernel, by decide +kernel, exec_after⟩

theorem witness_O18 :
    succeeds (.derLendec 1) State.reset = true ∧ succeeds (.pkcsVerify 4 2) (smallKey 98) = true ∧
    succeeds (.oidDec 3) (dbufIs [0x06, 0x01, 0x2a]) = true ∧ succeeds (.oidLdalg 8) State.reset = true ∧
    succeeds .nop State.reset = true ∧ ∀ i s, exec i s = .next (after i s) :=
  ⟨by decide +kernel, by decide +kernel, by decide +kernel, by decide +kernel, by decide +kernel, exec_after⟩

theorem witness_O19 :
    (let t := after (.derLendec 1) (dbufIs [0x05])
     t.res0 ≠ State.reset.res0) ∧
    (after (.aesKeyexp 0) State.reset).w ≠ State.reset.w ∧ (smallKey 98).bnValid 2 = true ∧ k0.kvalid = true ∧
    ∀ i s, exec i s = .next (after i s) := ⟨by decide +kernel, by decide +kernel, by decide +kernel, rfl, exec_after⟩

theorem witness_O20 :
    (0x00000100#32).toNat % 256 = 0 ∧ (0x00000100#32) ≠ 0 ∧
    (let s := { awaiting [.host (.write 0x04 .word 0)] with err := true }
     s.engine = .idle ∧ s.err = true ∧ s.agenda = [.host (.write (s.cfg.base + 0x04) .word 0)]) :=
  ⟨rfl, by decide, rfl, rfl, rfl⟩

theorem witness_O21 :
    (active .none).phase = .active ∧ (2 : BitVec 2) ≠ 3 ∧ (0 : BitVec 2) ≠ 3 ∧ State.reset.phase ≠ .active ∧
    ({ k0 with phase := .finished } : State).phase ≠ .active := by decide

theorem witness_O22_O23_O24_O25_O26 :
    Memory.wf (dbufIs (hex 16 plain)).mem = true ∧
    ({ dbufIs (hex 16 plain) with kvalid := true } : State).kvalid = true ∧ 14 ∈ [10, 12, 14] ∧
    (10 : BitVec 4).toNat ≤ 10 + 2 * k0.aesMode.code.toNat ∧
    (14 : BitVec 4).toNat ≤ 10 + 2 * ({ k0 with aesMode := .aes256 } : State).aesMode.code.toNat ∧
    (3 : BitVec 16) ≠ 2 := by decide +kernel

theorem witness_O30_O36 : k0.kvalid = true ∧ State.reset.kvalid = false ∧ (2 : BitVec 2) ≠ 3 := by decide

/-- The queue just full enough. -/
theorem witness_O31 :
    let s := { active .none with outq := List.replicate 127 .endMark, bufLen := 15 }
    s.phase = .active ∧ (1 : BitVec 16).toNat ≤ s.cfg.dbufSize ∧
      s.outq.length + (s.bufLen.toNat + (1 : BitVec 16).toNat) / 16 = s.cfg.outqDepth := by decide +kernel

theorem witness_O32 :
    (let s := { active .pkcs7 with outq := List.replicate 126 .endMark, bufLen := 15 }
     s.phase = .active ∧ ¬(s.pad = .none ∧ (s.bufLen.toNat + (0 : BitVec 16).toNat) % 16 ≠ 0) ∧
     s.outq.length + (s.bufLen.toNat + (0 : BitVec 16).toNat) / 16 +
      (if paddingOf s.pad ((s.bufLen.toNat + (0 : BitVec 16).toNat) % 16) = [] then 0 else 1) + 1 = s.cfg.outqDepth) ∧
    (let s := { active .none with bufLen := 15 }
     ¬(s.pad = .none ∧ (s.bufLen.toNat + (1 : BitVec 16).toNat) % 16 ≠ 0)) := by decide +kernel

/-- One byte, then sixteen, against seventeen at once. -/
def splitWhole : State := fillAt (active .zero) dbufBase (forty.take 17)
def splitFirst : State := fillAt (active .zero) dbufBase (forty.take 1)
def splitSecond : State := fillAt (after (.sesUpdate 1) splitFirst) dbufBase ((forty.drop 1).take 16)

theorem witness_O34 :
    (17 : BitVec 16).toNat = (1 : BitVec 16).toNat + (16 : BitVec 16).toNat ∧
    (17 : BitVec 16).toNat ≤ splitFirst.cfg.dbufSize ∧ sameSession splitFirst splitWhole ∧
    exec (.sesUpdate 1) splitFirst = .next (after (.sesUpdate 1) splitFirst) ∧
    (after (.sesUpdate 1) splitFirst).err = false ∧
    sameSession (after (.sesUpdate 1) splitFirst) splitSecond ∧
    splitWhole.dbuf 17 = splitFirst.dbuf 1 ++ splitSecond.dbuf 16 ∧ splitWhole.err = false ∧ splitSecond.err = false ∧
    (∀ i ∈ [Instr.sesUpdate 16, .sesFinal 16], exec i splitSecond = .next (after i splitSecond) ∧
      (after i splitSecond).err = false) :=
  ⟨rfl, by decide, ⟨rfl, rfl, rfl, rfl, rfl, rfl, rfl, rfl, rfl, rfl, rfl, rfl⟩, exec_after _ _, by decide +kernel,
    ⟨rfl, rfl, rfl, rfl, rfl, rfl, rfl, rfl, rfl, rfl, rfl, rfl⟩, by decide +kernel, rfl, by decide +kernel,
    fun i hi => ⟨exec_after _ _, by revert i; decide +kernel⟩⟩

/-- Three bytes encrypted with padding, and the session that decrypts them. -/
def sealing : State := fillAt (active .pkcs7) dbufBase [0x6b, 0xc1, 0xbe]
def sealed : State := after (.sesFinal 3) sealing
def opening : State := fillAt { active .none with dir := .decrypt } dbufBase (outputBytes sealed.outq)

theorem witness_O35 :
    sealing.phase = .active ∧ sealing.dir = .encrypt ∧ sealing.bufLen = 0 ∧ sealing.outq = [] ∧ sealing.err = false ∧
    exec (.sesFinal 3) sealing = .next sealed ∧ sealed.err = false ∧ opening.phase = .active ∧
    opening.dir = .decrypt ∧ opening.pad = .none ∧ opening.bufLen = 0 ∧ opening.outq = [] ∧ opening.err = false ∧
    opening.w = sealing.w ∧ opening.aesMode = sealing.aesMode ∧ opening.chainMode = sealing.chainMode ∧
    opening.chain = sealing.chain ∧ opening.dbuf (16 : BitVec 16).toNat = outputBytes sealed.outq ∧
    (16 : BitVec 16).toNat ≤ opening.cfg.dbufSize ∧ opening.cfg.wf = true :=
  ⟨rfl, rfl, rfl, rfl, rfl, exec_after _ _, by decide +kernel, rfl, rfl, rfl, rfl, rfl, rfl, rfl, rfl, rfl, rfl,
    by decide +kernel, by decide, by decide⟩

theorem witness_O36 :
    State.reset.phase ≠ .active ∧ ({ k0 with phase := .finished } : State).phase ≠ .active ∧
    (after (.sesUpdate 1) (active .none)).phase = .active ∧ (after (.sesFinal 1) (active .none)).err = true ∧
    (after (.sesFinal 16) (active .none)).phase ≠ (active .none).phase ∧
    (after (.sesInit .encrypt .ecb 0) k0).phase ≠ k0.phase ∧ ∀ i s, exec i s = .next (after i s) :=
  ⟨by decide, by decide, by decide +kernel, by decide +kernel, by decide +kernel, by decide +kernel, exec_after⟩

theorem witness_O37 :
    ∀ e ∈ [Engine.idle, .running 0x00000006], ∀ a ∈ [Event.host (.write 0x60 .word 1), .engine],
      let s := { active .none with engine := e, agenda := [a] }
      step s = .next (stepped s) ∧ s.phase = .active ∧ (stepped s).phase ≠ .idle :=
  fun e he a ha => ⟨step_next _, rfl, by revert e a; decide +kernel⟩

theorem witness_O38 :
    (let s := { active .pkcs7 with bufLen := 15 }
     s.cfg.wf = true ∧ s.phase = .active ∧ s.outq = [] ∧ (1024 : BitVec 16).toNat ≤ s.cfg.dbufSize ∧
     ¬(s.pad = .none ∧ (s.bufLen.toNat + (1024 : BitVec 16).toNat) % 16 ≠ 0)) ∧
    ¬((active .none).pad = .none ∧ ((active .none).bufLen.toNat + (1024 : BitVec 16).toNat) % 16 ≠ 0) := by
  decide +kernel

theorem witness_O39 :
    (∀ r ∈ [0#6, 9, 16, 24], bnRegExists State.reset.cfg r = true) ∧
    (512 : BitVec 16).toNat ≤ State.reset.cfg.kmax ∧ (513 : BitVec 16).toNat > State.reset.cfg.kmax := by decide

theorem witness_O40 :
    (9 : BitVec 6) ∈ [0#6, 1, 8, 9] ∧ (1024 : BitVec 16).toNat ≤ State.reset.cfg.dbufSize ∧
    State.reset.cfg.dbufSize < (1025 : BitVec 16).toNat ∧ State.reset.bnValid 9 = false ∧
    ((State.reset.putBn 9 255).bnValid 9 = true ∧ (State.reset.putBn 9 255).bnVal 9 < 256 ^ (1 : BitVec 16).toNat) ∧
    256 ^ (1 : BitVec 16).toNat ≤ (State.reset.putBn 9 256).bnVal 9 ∧
    Memory.wf (State.reset.putBn 9 255).mem = true := by decide +kernel

theorem witness_O41 :
    (∃ x, i2osp 2600 2 = .ok x) ∧ Memory.wf t512.mem = true ∧ t512.cfg.wf = true ∧ (1 : BitVec 6) ∈ [0#6, 1, 8, 9] ∧
    (512 : BitVec 16).toNat ≤ t512.cfg.kmax :=
  ⟨⟨_, rfl⟩, by decide +kernel, by decide, by decide, by decide⟩

/-- The largest representative and signature. -/
theorem witness_O42 :
    let s := (smallKey 3232).putBn 9 3232
    s.bnValid regN = true ∧ s.bnVal regN ≠ 0 ∧ s.bnValid regD = true ∧ s.bnValid regM = true ∧
      s.bnVal regM < s.bnVal regN ∧ s.bnValid regE = true ∧ s.bnValid regS = true ∧ s.bnVal regS < s.bnVal regN := by
  decide +kernel

theorem witness_O43 :
    ∀ m ∈ [0, 98, 151950], (threePrimes m).keycheckMp = false ∧ (threePrimes m).bnValid regM = true ∧
      (threePrimes m).bnVal regM < (threePrimes m).bnVal regN ∧
      (threePrimes m).multiPrimeValue ((threePrimes m).bnVal regM) < 2 ^ (8 * (threePrimes m).cfg.kmax) := by
  decide +kernel

theorem three_primes_consistent : (threePrimes 98).ConsistentMultiPrime ((threePrimes 98).bnVal regD) := by
  have hp : (threePrimes 98).bnVal regP = 61 := by decide +kernel
  have hq : (threePrimes 98).bnVal regQ = 53 := by decide +kernel
  have hd : (threePrimes 98).bnVal regD = 10553 := by decide +kernel
  have ht : (threePrimes 98).triplets = [(47, 19, 14)] := by decide +kernel
  refine ⟨?_, by decide +kernel, by decide +kernel, by decide +kernel, ?_, by decide +kernel⟩
  · rw [hp, hq]; norm_num
  · rw [hp, hq, hd, ht]
    refine ⟨by norm_num, by norm_num, rfl, by norm_num, by norm_num, trivial⟩

theorem witness_O44 :
    (threePrimes 98).keycheckMp = false ∧ (threePrimes 98).keycheckPair = false ∧
    (threePrimes 98).bnValid regM = true ∧ (threePrimes 98).ConsistentMultiPrime ((threePrimes 98).bnVal regD) ∧
    (threePrimes 98).bnVal regM < (threePrimes 98).bnVal regN ∧
    (threePrimes 98).bnVal regN < 2 ^ (8 * (threePrimes 98).cfg.kmax) :=
  ⟨by decide +kernel, by decide +kernel, by decide +kernel, three_primes_consistent, by decide +kernel, by decide +kernel⟩

/-- Matching exponents for a modulus of two primes. -/
theorem matching_of_two {p q e d : Nat} (hp : p.Prime) (hq : q.Prime) (hpq : p ≠ q) (h1 : 1 ≤ e * d)
    (he : e * d % (p - 1) = 1 % (p - 1)) (hf : e * d % (q - 1) = 1 % (q - 1)) : MatchingExponents (p * q) e d := by
  refine ⟨?_, h1, fun r hr hd => ?_⟩
  · exact (Nat.squarefree_mul ((Nat.coprime_primes hp hq).2 hpq)).2 ⟨hp.prime.squarefree, hq.prime.squarefree⟩
  · rcases (Nat.Prime.dvd_mul hr).1 hd with h | h
    · rw [(Nat.prime_dvd_prime_iff_eq hr hp).1 h]; exact he
    · rw [(Nat.prime_dvd_prime_iff_eq hr hq).1 h]; exact hf

theorem witness_O45 :
    let s := smallKey 98
    s.keycheckPub = false ∧ s.keycheckPair = false ∧ s.bnValid regM = true ∧
      MatchingExponents (s.bnVal regN) (s.bnVal regE) (s.bnVal regD) ∧ s.bnVal regM < s.bnVal regN := by
  refine ⟨by decide +kernel, by decide +kernel, by decide +kernel, ?_, by decide +kernel⟩
  rw [show (smallKey 98).bnVal regN = 61 * 53 by decide +kernel, show (smallKey 98).bnVal regE = 17 by decide +kernel,
    show (smallKey 98).bnVal regD = 413 by decide +kernel]
  exact matching_of_two (by norm_num) (by norm_num) (by norm_num) (by norm_num) (by norm_num) (by norm_num)

theorem witness_O46 :
    (127#32).toNat < 128 ∧ 128 ≤ (128#32).toNat ∧ (0x7FFFFFFF#32).toNat < 2 ^ 31 ∧
    (dbufIs [0x82, 0x01, 0x00]).dbuf 3 = derlen 256 ++ [] ∧
    (∀ v y, v < 2 ^ 31 → State.reset.dbuf (0 : BitVec 16).toNat ≠ derlen v ++ y) := by
  refine ⟨by decide, by decide, by decide, by decide +kernel, fun v y _ h => ?_⟩
  have := congrArg List.length h
  rw [List.length_append, length_derlen] at this
  have h0 : (State.reset.dbuf (0 : BitVec 16).toNat).length = 0 := rfl
  split at this <;> omega

theorem witness_O47 :
    2147483647 < 2 ^ 31 ∧ derlenDec [0x7f] = .ok (127, 1) ∧ derlenDec [] = .error .decodeError := ⟨by decide, rfl, rfl⟩

/-- The largest first byte, and sixteen components. -/
theorem witness_O48_O49 :
    (∀ o ∈ [[2, 175], [1, 39] ++ List.replicate 14 4294967295],
      2 ≤ (oidIs o).oidn.toNat ∧ (oidIs o).oidn.toNat ≤ 16 ∧ (oidIs o).components.getD 0 0 ≤ 2 ∧
      ((oidIs o).components.getD 0 0 < 2 → (oidIs o).components.getD 1 0 ≤ 39) ∧
      40 * (oidIs o).components.getD 0 0 + (oidIs o).components.getD 1 0 ≤ 255 ∧
      (after .oidEnc (oidIs o)).err = false) ∧
    oidEnc [2, 175] = .ok (hex 3 0x0601ff) ∧ (∀ c ∈ [2, 175], c < 2 ^ 32) ∧
    (dbufIs (hex 3 0x0601ff)).dbuf 3 = hex 3 0x0601ff ++ [] ∧ oidDec (hex 3 0x0601ff) = .ok ([2, 175], 3) ∧
    Memory.wf (oidIs [2, 175]).mem = true ∧ (oidIs [2, 175]).cfg.wf = true :=
  ⟨by decide +kernel, rfl, by decide, by decide +kernel, rfl, rfl, by decide⟩

theorem witness_O50 : (8 : BitVec 4).toNat < 9 ∧ 9 ≤ (9 : BitVec 4).toNat := by decide

/-- The shortest encoded message, and T512's key in both forms. -/
theorem witness_O51 :
    Memory.wf t512.mem = true ∧ (4 : BitVec 4).toNat < 9 ∧ t512.hlen.toNat ≤ hLenOf 4 ∧
    tLenOf t512.cfg.emsaTForm 4 t512.hlen.toNat + 11 = (58 : BitVec 16).toNat ∧
    (58 : BitVec 16).toNat ≤ t512.cfg.dbufSize ∧
    tLenOf t512.cfg.emsaTForm 4 t512.hlen.toNat + 11 ≤ bytelen (t512.bnVal regN) ∧
    t512.keycheckPair = false ∧ t512.keycheckMp = false ∧
    t512.multiPrimeValue (os2ip (emBytes t512.cfg.emsaTForm 4 (t512.hbuf t512.hlen.toNat) (bytelen (t512.bnVal regN)))) <
      256 ^ bytelen (t512.bnVal regN) := by decide +kernel

theorem witness_O52 :
    (8 : BitVec 4).toNat < 9 ∧ (1024 : BitVec 16).toNat ≤ t512.cfg.dbufSize ∧ t512.keycheckPub = false := by
  decide +kernel

/-- A prime r with r - 1 = 2^(k+1) * 3^(m+1), by an element of order r - 1. -/
theorem prime_of_order {r a k m : Nat} (h0 : r - 1 = 2 ^ (k + 1) * 3 ^ (m + 1)) (h : modexp a (r - 1) r = 1)
    (h2 : modexp a ((r - 1) / 2) r ≠ 1) (h3 : modexp a ((r - 1) / 3) r ≠ 1) : r.Prime := by
  have hpos : 0 < 2 ^ (k + 1) * 3 ^ (m + 1) := by positivity
  have h1 : 1 % r = 1 := Nat.mod_eq_of_lt (by omega)
  have key : ∀ e, ((a : ZMod r) ^ e = 1 ↔ modexp a e r = 1) := fun e => by
    rw [modexp_eq, ← Nat.cast_pow, ← Nat.cast_one, ZMod.natCast_eq_natCast_iff', h1]
  refine lucas_primality r (a : ZMod r) ((key _).2 h) fun q hq hd => ?_
  rw [h0] at hd
  rcases (Nat.Prime.dvd_mul hq).1 hd with hd | hd
  · rw [(Nat.prime_dvd_prime_iff_eq hq Nat.prime_two).1 (hq.dvd_of_dvd_pow hd)]; exact fun h => h2 ((key _).1 h)
  · rw [(Nat.prime_dvd_prime_iff_eq hq Nat.prime_three).1 (hq.dvd_of_dvd_pow hd)]; exact fun h => h3 ((key _).1 h)

def bigP : Nat := 2 ^ 81 * 3 ^ 2 + 1
def bigQ : Nat := 2 ^ 65 * 3 ^ 12 + 1

theorem prime_bigP : bigP.Prime := prime_of_order (a := 13) (k := 80) (m := 1) (by decide +kernel) (by decide +kernel) (by decide +kernel) (by decide +kernel)
theorem prime_bigQ : bigQ.Prime := prime_of_order (a := 7) (k := 64) (m := 11) (by decide +kernel) (by decide +kernel) (by decide +kernel) (by decide +kernel)

/-- A key of 22 bytes, the shortest that signs an empty SHA1 digest, in both forms. -/
def signingKey : State :=
  withBns State.reset
    [(0, bigP * bigQ), (1, 5), (2, 513978197201454514588019903693), (3, bigP), (4, bigQ), (5, 13056398851837995086826701),
     (6, 7842684893821022256286925), (7, 19865370227784956298285742)]

theorem signing_key_values :
    signingKey.bnVal regN = bigP * bigQ ∧ signingKey.bnVal regE = 5 ∧
    signingKey.bnVal regD = 513978197201454514588019903693 ∧ signingKey.bnVal regP = bigP ∧
    signingKey.bnVal regQ = bigQ ∧ signingKey.triplets = [] := by decide +kernel

theorem signing_key_consistent : signingKey.ConsistentMultiPrime (signingKey.bnVal regD) := by
  obtain ⟨hn, -, hd, hp, hq, ht⟩ := signing_key_values
  refine ⟨?_, by decide +kernel, by decide +kernel, by decide +kernel, ?_, by decide +kernel⟩
  · rw [hp, hq]; exact ⟨prime_bigP, prime_bigQ, by decide +kernel⟩
  · rw [ht]; trivial

theorem witness_O53 :
    Memory.wf signingKey.mem = true ∧ signingKey.cfg.wf = true ∧ signingKey.err = false ∧
    signingKey.keycheckPub = false ∧ signingKey.bnVal regN < 2 ^ (8 * signingKey.cfg.kmax) ∧
    MatchingExponents (signingKey.bnVal regN) (signingKey.bnVal regE) (signingKey.bnVal regD) ∧
    signingKey.ConsistentMultiPrime (signingKey.bnVal regD) ∧
    (∀ form, exec (.pkcsSign 2 form) signingKey = .next (after (.pkcsSign 2 form) signingKey) ∧
      (after (.pkcsSign 2 form) signingKey).err = false) := by
  refine ⟨by decide +kernel, by decide, rfl, by decide +kernel, by decide +kernel, ?_, signing_key_consistent,
    fun form => ⟨exec_after _ _, by cases form <;> decide +kernel⟩⟩
  obtain ⟨hn, he, hd, -⟩ := signing_key_values
  rw [hn, he, hd]
  exact matching_of_two prime_bigP prime_bigQ (by decide +kernel) (by decide) (by decide +kernel) (by decide +kernel)

theorem witness_O54 :
    (let s := awaiting [.host (.read 0x13FF .byte)]
     s.cfg.wf = true ∧ s.engine = .idle ∧ s.agenda = [.host (.read 0x13FF .byte)] ∧
     ∃ off, 0x13FF = s.cfg.base + off ∧ legalOffset s.cfg off .byte) ∧
    (∀ x ∈ [(0x1400, Width.word), (0x00, .byte), (0x02, .half), (0x3C, .word), (0x100, .word), (0x1001, .word),
      (0x1001, .half), (0x80, .byte)], ¬∃ off, x.1 = State.reset.cfg.base + off ∧ legalOffset State.reset.cfg off x.2) ∧
    ¬∃ off, 0x3FFC = (0x4000 : Nat) + off ∧ legalOffset { Config.reference with base := 0x4000 } off .word := by
  refine ⟨⟨by decide, rfl, rfl, 0x13FF, rfl, by unfold legalOffset; decide⟩, fun x hx => ?_, fun ⟨off, h, _⟩ => by omega⟩
  rintro ⟨off, h, hl⟩
  have h' : off = x.1 := by rw [h]; exact (Nat.zero_add off).symm
  rw [h'] at hl
  clear h h'
  revert hl
  unfold legalOffset
  revert x
  decide +kernel

theorem witness_O55 :
    State.reset.engine = .idle ∧ 0x30 ∈ [0x00, 0x08, 0x0C, 0x10, 0x20, 0x24, 0x28, 0x30] ∧
    (0x40 ≤ 0x4F ∧ 0x4F + Width.byte.bytes ≤ 0x50 ∧ 0x4F % Width.byte.bytes = 0) ∧ 0x14 ∈ [0x04, 0x14] ∧
    (0x60 ≤ 0x7E ∧ 0x7E + Width.half.bytes ≤ 0x80 ∧ 0x7E % Width.half.bytes = 0) ∧
    (0x2C, 0x7F#32) ∈ [(0x18, 0x7#32), (0x1C, 0xFFFFFFFF#32), (0x2C, 0x7F#32), (0x34, 0x1F#32), (0x38, 0x7#32)] ∧
    (15 < 16 ∧ (0 : Nat) ≠ 15) := by
  decide

theorem witness_O56 :
    State.reset.cfg.wf = true ∧ State.reset.engine = .idle ∧
    (∀ off ∈ [0x40, 0x7C, 0xC0, 0xFC, 0x1000, 0x13FC], 0x40 ≤ off ∧ ¬(0x80 ≤ off ∧ off < 0xC0) ∧
      legalOffset State.reset.cfg off .word ∧ legalOffset State.reset.cfg (off + 2) .half) ∧
    (∀ off ∈ [0x50, 0x7F, 0xC0, 0xFF, 0x1000, 0x13FF],
      (0x50 ≤ off ∧ off < 0x80) ∨ (0xC0 ≤ off ∧ off < 0x100) ∨
        (0x1000 ≤ off ∧ off < 0x1000 + State.reset.cfg.dbufSize)) ∧
    Memory.wf State.reset.mem = true := by
  unfold legalOffset; decide

theorem witness_O57 :
    ({ State.reset with outq := List.replicate 255 .endMark } : State).engine = .idle ∧
    ({ State.reset with outq := List.replicate 255 .endMark } : State).outq.length ≤ 255 ∧
    (0x38, State.reset.nap.setWidth 32) ∈ [(0x34, State.reset.oidn.setWidth 32), (0x38, State.reset.nap.setWidth 32)] ∧
    (∀ off ∈ [0x50, 0x5F, 0xC0, 0xFF, 0x1000, 0x13FF],
      (0x50 ≤ off ∧ off < 0x60) ∨ (0xC0 ≤ off ∧ off < 0x100) ∨
        (State.reset.cfg.wf = true ∧ 0x1000 ≤ off ∧ off < 0x1000 + State.reset.cfg.dbufSize)) :=
  ⟨rfl, by decide +kernel, by decide, by decide⟩

theorem witness_O58 :
    (let s := State.reset
     let s' := fillAt ({ t512 with hlen := 0, mem := [], w := Vector.replicate 60 ⟨1, 2, 3, 4⟩ }) keyBase [0x55]
     s.engine = .idle ∧ s' = { s with w := s'.w, bn := s'.bn, chain := s'.chain, buf := s'.buf, mem := s'.mem } ∧
     s'.bn ≠ s.bn ∧ ∀ a, ¬(0x60 ≤ a ∧ a < 0x80) → Memory.read s'.mem a = Memory.read s.mem a) ∧
    decode Config.reference 0x00020911 = .ok (.bnSt 9 2) := by
  refine ⟨⟨rfl, by decide +kernel, by decide +kernel, fun a ha => ?_⟩, rfl⟩
  refine Memory.read_writeBytes_other [0x55] [] keyBase a fun h => ha ?_
  simp only [keyBase, List.length_singleton] at h
  omega

/-- R11's bound on `OUTQ_DEPTH` is exact: 132/16 + 3 = 11.25. -/
theorem test_queue_depth_bound :
    ({ Config.reference with kmax := 132, dbufSize := 132, outqDepth := 11 } : Config).wf = false ∧
    ({ Config.reference with kmax := 132, dbufSize := 132, outqDepth := 12 } : Config).wf = true ∧
    ({ Config.reference with dbufSize := 4036, outqDepth := 255 } : Config).wf = false := by decide

theorem witness_O59 :
    Config.reference.wf = true ∧
    ({ base := 0x8000, kmax := 4032, apMax := 7, dbufSize := 4032, outqDepth := 255, emsaTForm := .digestInfo } :
      Config).wf = true := by decide

/-- A command running on loaded data, with an event to come. -/
theorem witness_O60 :
    let s := { fillAt (State.reset.putBn 24 5) dbufBase [0x0c, 0xa1] with
      engine := .running 0x00020010, agenda := [.host (.read 0x08 .word)] }
    s.Inv := by
  constructor <;> decide +kernel

/-! ## The bus, `CTRL`, the interrupt and the life of a command: V81 to V84, V26 -/

/-- n steps. -/
def run : Nat → State → State
  | 0, s => s
  | n + 1, s => run n (stepped s)

theorem test_withFetchWord_runs :
    (stepped (State.reset.withFetchWord 32 0x0000041D)).res0 = 32 ∧
    (stepped (State.reset.withFetchWord 32 0x00000007)).errcode = 1 := by decide +kernel

/-- V81: the error is sticky, commands are dropped, other accesses go on, CLRERR clears. -/
theorem test_sticky_error :
    (let ev := cmdLine Config.reference .nop
     let s := run 2 (awaiting (wr32 Config.reference 0x04 7 ++ [.engine]))
     let t := run 3 { s with agenda := ev ++ [.engine] ++ wr32 Config.reference 0x1C 5 }
     let u := run 1 { t with agenda := ctrlLine Config.reference 1 }
     s.statusWord = 4 ∧ s.errcode = 1 ∧ s.errcmd = 7 ∧ t.statusWord = 4 ∧ t.arg0 = 5 ∧ u.statusWord = 0 ∧
     (run 2 { u with agenda := ev ++ [.engine] }).statusWord = 2) := by decide +kernel

/-- V82: CTRL 3 clears and pops, CTRL 7 zeroizes only. -/
theorem test_ctrl :
    (let s := { k0 with err := true, errcode := 7, errcmd := 2, outq := [item 1, .endMark] }
     s.ctrlAction 3 = { k0 with outq := [.endMark] } ∧ s.ctrlAction 7 = State.reset ∧ s.ctrlAction 8 = s) := by
  decide +kernel

/-- V84. -/
theorem test_bus_accesses :
    (let s := (State.reset.hostAccess (.write 0x1000 .word 0x03020100)).hostAccess (.write 0x60 .word 0xFFFFFFFF)
     s.dbuf 4 = [0x00, 0x01, 0x02, 0x03] ∧
     (s.hostAccess (.read 0x1002 .byte)).resp = some (.data 0x02) ∧
     (s.hostAccess (.read 0x1002 .half)).resp = some (.data 0x0302) ∧
     (s.hostAccess (.read 0x00 .word)).resp = some (.data 0x4B4A5754) ∧
     (s.hostAccess (.read 0x60 .word)).resp = some (.data 0) ∧
     ((s.hostAccess (.write 0x2C .word 0xFFFFFFFF)).hostAccess (.read 0x2C .word)).resp = some (.data 0x7F) ∧
     ((s.hostAccess (.write 0x38 .word 9)).hostAccess (.read 0x38 .word)).resp = some (.data 1) ∧
     ((s.hostAccess (.write 0xBC .word 0x80000001)).hostAccess (.read 0xBC .word)).resp = some (.data 0x80000001) ∧
     Memory.read (s.hostAccess (.write 0xFF .byte 0x1AB)).mem 0xFF = 0xAB) := by decide +kernel

theorem test_bus_faults :
    ∀ a ∈ [Access.read 0x00 .byte, .read 0x02 .half, .read 0x3C .word, .read 0x100 .word, .read 0x1400 .word,
      .read 0x1001 .word, .write 0x1001 .half 0, .read 0x80 .byte, .read 0x4000 .word],
      State.reset.hostAccess a = State.reset.respond .accessFault := by decide +kernel

/-- V26 (little-endian lanes of `OUTHEAD`) and V83. -/
theorem test_output_and_interrupt :
    (let s := { State.reset with outq := [item 0x7649abac8119b246cee98e9b12e9197d, .endMark], irqen := 4 }
     (s.hostAccess (.read 0x40 .word)).resp = some (.data 0xacab4976) ∧
     (s.hostAccess (.read 0x30 .word)).resp = some (.data 0x00000201) ∧
     (s.popOutput.hostAccess (.read 0x40 .word)).resp = some (.data 0) ∧ s.popOutput.outstatWord = 0x00000102 ∧
     s.irq = true ∧ s.popOutput.popOutput.irq = false) := by decide +kernel

end Sys2Proof.Tests
end

section
/-! SUPPORT. Proofs about the state (10_state.md). -/

namespace Sys2Proof.Machine

open Sys2Proof

/-! ## Reset (10_state.md R52) -/

/-- Every register reads as not loaded after reset. -/
theorem State.bn_resetOf (cfg : Config) (r : BitVec 6) :
    (State.resetOf cfg).bnVal r = 0 ∧ (State.resetOf cfg).bnValid r = false := by
  simp [State.bnVal, State.bnValid, State.resetOf]

/-- R52's table holds after every piece of state went to its reset value, whatever the model's own fields hold. -/
theorem State.atResetValues_clearAll (s : State) : s.clearAll.AtResetValues where
  id := rfl
  progress := ⟨rfl, rfl, rfl⟩
  error := ⟨rfl, rfl⟩
  irqen := ⟨rfl, rfl⟩
  registers := ⟨rfl, rfl, rfl, rfl, rfl, rfl, rfl⟩
  windows _ := rfl
  oidv := rfl
  outq := ⟨rfl, show (0#16 ++ 0#8 ++ 0#6 ++ 0#2 : Word) = 0 by decide, fun _ => rfl⟩
  bn := State.bn_resetOf s.cfg
  schedule := ⟨rfl, rfl, rfl⟩
  session := ⟨rfl, rfl, rfl, rfl⟩
  buffers := ⟨rfl, rfl, rfl⟩

/-- R52's table says nothing of the response. -/
theorem State.AtResetValues.respond {s : State} (h : s.AtResetValues) (r : BusResponse) :
    (s.respond r).AtResetValues :=
  { h with }

/-- A write of `CTRL` performs its action and is acknowledged (48_system.md R343). -/
theorem State.hostAccess_ctrl (s : State) (v : Word) :
    s.hostAccess (.write (s.cfg.base + 0x14) .word v) = (s.ctrlAction v).respond .written :=
  State.hostAccess_write (by decide) (legalRow_register s.cfg (row := ⟨0x14, 4, .reg .ctrl⟩) (by decide)) v

/-- With bit 2 set the action is ZEROIZE (48_system.md R346). -/
theorem State.ctrlAction_zeroize (s : State) {v : Word} (h : v.getLsbD 2 = true) : s.ctrlAction v = s.clearAll :=
  if_pos h

/-- The step at a pulse of the reset input, at any time (70_reset_and_hazards.md R400). -/
theorem step_reset {s : State} {es : List Event} (h : s.agenda = .reset :: es) :
    step s = .next (s.withAgenda es).clearAll := by
  simp only [step, moveOn, h]

/-- The step at a HOST access while no command runs. -/
theorem step_host_idle {s : State} {a : Access} {es : List Event} (he : s.engine = .idle)
    (h : s.agenda = .host a :: es) : step s = .next ((s.withAgenda es).hostAccess a) := by
  simp only [step, moveOn, h, he]

/-- The step at a read of `STATUS`' offset while a command runs (20_memory.md R85). -/
theorem step_answered {s : State} {c : Word} {a : Access} {es : List Event} (he : s.engine = .running c)
    (h : s.agenda = .host a :: es) (ha : a.answeredWhileBusy s.cfg = true) :
    step s = .next ((s.withAgenda es).answerBusy a) := by
  simp only [step, moveOn, h, he, ha, if_true]

/-- Settles O9: the reset state is the one every clearing gives, the step at a reset pulse and the `CTRL` write both
clear. -/
theorem resetLeavesEveryPieceAtItsValue : Obligations.ResetLeavesEveryPieceAtItsValue := by
  refine ⟨State.reset.atResetValues_clearAll, fun s es h => ?_, fun s v es he h hv => ?_⟩
  · exact ⟨_, step_reset h, State.atResetValues_clearAll _, rfl, rfl⟩
  · refine ⟨_, step_host_idle he h, ?_, ?_, ?_⟩ <;>
      rw [← s.withAgenda_cfg es, State.hostAccess_ctrl, State.ctrlAction_zeroize _ hv]
    · exact (State.atResetValues_clearAll _).respond _
    · rfl
    · rfl

/-- Settles O8: the answer is the busy word, whose bit 0 is 1 below the free value. -/
theorem statusReadWhileBusyAnsweredAtOnce : Obligations.StatusReadWhileBusyAnsweredAtOnce := by
  intro s c es he h
  refine ⟨s.busyStatusWord, ?_, step_answered he h (beq_self_eq_true _)⟩
  exact BitVec.getLsbD_append.trans rfl

/-- The state after reset meets the invariant. -/
theorem State.Inv.resetOf {cfg : Config} (hcfg : cfg.wf = true) : (State.resetOf cfg).Inv := by
  have hbn := State.bn_resetOf cfg
  exact
    { cfg_wf := hcfg
      session_has_key := fun h => absurd rfl h
      err_iff_code := ⟨fun _ => rfl, fun _ => rfl⟩
      done_no_err := fun _ => rfl
      outq_fits := Nat.zero_le _
      end_is_last := List.not_mem_nil
      end_only_finished := fun h => absurd h List.not_mem_nil
      bn_fits := fun r => (hbn r).1 ▸ Nat.two_pow_pos _
      bn_unloaded_zero := fun r _ => (hbn r).1
      bn_loaded_exists := fun r h => absurd ((hbn r).2.symm.trans h) Bool.false_ne_true
      dlen_fits := Nat.zero_le _
      mem_wf := rfl
      mem_in_windows := fun _ h => absurd h List.not_mem_nil
      busy_clear := fun h => absurd rfl h }

/-- Settles O59. -/
theorem resetMeetsInvariant : Obligations.ResetMeetsInvariant := fun _ => State.Inv.resetOf

/-! ## What a HOST access can do, said once (20_memory.md R74, R75) -/

/-- The states a HOST access can leave, but for the response: a command accepted or dropped, a `CTRL` action, other
registers or `OIDV` entries written (none for a read), or bytes stored inside the byte windows. -/
inductive HostEffect (s : State) : State → Prop
  | command (v : Word) : HostEffect s (s.writeCmd v)
  | control (v : Word) : HostEffect s (s.ctrlAction v)
  | registers (irqen : BitVec 3) (arg0 : Word) (hlen : BitVec 7) (oidn : BitVec 5) (nap : BitVec 3)
      (oidv : Vector Word 16) :
      HostEffect s { s with irqen := irqen, arg0 := arg0, hlen := hlen, oidn := oidn, nap := nap, oidv := oidv }
  | window (off : Nat) (x : Bytes) (h : ∀ a, off ≤ a → a < off + x.length → inWindow s.cfg a = true) :
      HostEffect s { s with mem := Memory.writeBytes s.mem off x }

/-- An access that writes nothing. -/
theorem HostEffect.refl (s : State) : HostEffect s s :=
  .registers s.irqen s.arg0 s.hlen s.oidn s.nap s.oidv

@[simp] theorem length_lanes (n : Nat) (v : Word) : (lanes n v).length = n := by
  simp [lanes]

theorem HostEffect.writeReg (s : State) (r : Reg32) (v : Word) : HostEffect s (s.writeReg r v) := by
  cases r with
  | cmd => exact .command v
  | ctrl => exact .control v
  | irqen => exact .registers (v.setWidth 3) s.arg0 s.hlen s.oidn s.nap s.oidv
  | arg0 => exact .registers s.irqen v s.hlen s.oidn s.nap s.oidv
  | hlen => exact .registers s.irqen s.arg0 (v.setWidth 7) s.oidn s.nap s.oidv
  | oidn => exact .registers s.irqen s.arg0 s.hlen (v.setWidth 5) s.nap s.oidv
  | nap => exact .registers s.irqen s.arg0 s.hlen s.oidn (v.setWidth 3) s.oidv
  | id | status | errcode | errcmd | res0 | res1 | dlen | outstat => exact .refl s

/-- The rows of the map whose bytes are bytes of the memory lie in the byte windows (R71). -/
theorem inWindow_of_row {cfg : Config} {row : MapRow} {a : Nat} (hm : row ∈ addressMap cfg)
    (ht : row.target ∈ [Target.iv, .key, .hbuf, .dbuf]) (h1 : row.base ≤ a) (h2 : a < row.base + row.size) :
    inWindow cfg a = true := by
  have registers : ∀ r ∈ registerRows, r.target ∉ [Target.iv, .key, .hbuf, .dbuf] := by decide
  rcases List.mem_append.1 hm with hm | hm
  · exact absurd ht (registers row hm)
  · simp only [List.mem_cons, List.not_mem_nil, or_false] at hm
    rcases hm with rfl | rfl | rfl | rfl | rfl | rfl <;>
      simp_all [inWindow]

theorem HostEffect.writeRow {s : State} {off : Nat} {n : Width} {row : MapRow}
    (hl : legalRow s.cfg off n = some row) (v : Word) : HostEffect s (s.writeRow row off n.bytes v) := by
  obtain ⟨hm, -, h1, h2, -⟩ := (legalRow_eq_some_iff s.cfg off n row).1 hl
  have stored (ht : row.target ∈ [Target.iv, .key, .hbuf, .dbuf]) :
      HostEffect s { s with mem := Memory.writeBytes s.mem off (lanes n.bytes v) } := by
    refine .window off _ fun a ha1 ha2 => inWindow_of_row hm ht (h1.trans ha1) ?_
    rw [length_lanes] at ha2
    omega
  obtain ⟨b, k, t⟩ := row
  cases t with
  | reg r => exact .writeReg s r v
  | oidv => exact .registers s.irqen s.arg0 s.hlen s.oidn s.nap _
  | outhead => exact .refl s
  | iv | key | hbuf | dbuf => exact stored (by simp)

/-- Every access has one of these effects and records a response. -/
theorem State.hostAccess_effect (s : State) (a : Access) :
    ∃ t r, HostEffect s t ∧ s.hostAccess a = t.respond r := by
  cases a with
  | read addr n =>
    cases h : blockOffset s.cfg addr with
    | none => exact ⟨s, .accessFault, .refl s, by simp only [State.hostAccess, h]⟩
    | some off => exact ⟨s, s.busRead off n, .refl s, by simp only [State.hostAccess, h]⟩
  | write addr n v =>
    cases h : blockOffset s.cfg addr with
    | none => exact ⟨s, .accessFault, .refl s, by simp only [State.hostAccess, h]⟩
    | some off =>
      refine ⟨(s.busWrite off n v).1, (s.busWrite off n v).2, ?_, by simp only [State.hostAccess, h]⟩
      unfold State.busWrite
      cases hl : legalRow s.cfg off n with
      | none => exact .refl s
      | some row => exact .writeRow hl v

/-- `CTRL` zeroizes, or clears the error record, the head of the queue, both or neither (48_system.md R343). -/
theorem State.ctrlAction_cases (s : State) (v : Word) :
    s.ctrlAction v = s.clearAll ∨ s.ctrlAction v = s ∨ s.ctrlAction v = s.clearError ∨
      s.ctrlAction v = s.popOutput ∨ s.ctrlAction v = s.clearError.popOutput := by
  unfold State.ctrlAction
  cases v.getLsbD 2 <;> cases v.getLsbD 0 <;> cases v.getLsbD 1 <;> simp

/-- A `STATUS` read answered while a command runs changes the response and the count of free values at most. -/
theorem State.answerBusy_eq (s : State) (a : Access) :
    ∃ r k, s.answerBusy a = { s with resp := r, freeCtr := k } := by
  match a with
  | .read _ .word => exact ⟨_, _, rfl⟩
  | .read _ .byte | .read _ .half => exact ⟨some .accessFault, s.freeCtr, rfl⟩
  | .write _ _ _ => exact ⟨s.resp, s.freeCtr, rfl⟩

/-! ## What a command's rule can do, said once -/

/-- The states the rule of a command can leave, by what it writes: nothing, the key schedule, a new session, the
queue and the buffer, the end of a session, a byte string in `DBUF`, a bignum register, the results, or the object
identifier and the results. The bounds hold where the state meets the invariant. -/
inductive RuleEffect (i : Instr) (s : State) : State → Prop
  | nothing (hi : i = .nop) : RuleEffect i s s
  | schedule (hi : ∃ ks, i = .aesKeyexp ks) (hp : s.phase ≠ .active) (w : Vector Quad 60) (m : AesMode) :
      RuleEffect i s { s with w := w, aesMode := m, kvalid := true }
  | opened (hk : s.kvalid = true) (dir : Dir) (chainMode : ChainMode) (pad : Pad) :
      RuleEffect i s { s with
        dir := dir, chainMode := chainMode, pad := pad, chain := s.ivBlock, buf := Block.zero, bufLen := 0
        outq := [], phase := .active }
  | absorbed (hp : s.phase = .active) (x : Bytes)
      (hq : s.outq.length + (s.bufLen.toNat + x.length) / 16 ≤ s.cfg.outqDepth) : RuleEffect i s (s.absorb x)
  | ended (hp : s.phase = .active) (x : Bytes)
      (hq : s.outq.length + (s.bufLen.toNat + x.length) / 16 + padCount s.pad ((s.bufLen.toNat + x.length) % 16) + 1
        ≤ s.cfg.outqDepth) : RuleEffect i s (s.absorb x).endSession
  | stored (x : Bytes) (hx : s.Inv → x.length ≤ s.cfg.dbufSize) : RuleEffect i s (s.putDbuf x)
  | loaded (r : BitVec 6) (v : Nat) (hr : bnRegExists s.cfg r = true) (hv : s.Inv → v < 2 ^ (8 * s.cfg.kmax)) :
      RuleEffect i s (s.putBn r v)
  | results (hi : (∃ l, i = .derLendec l) ∨ ∃ alg l, i = .pkcsVerify alg l) (a b : Nat) :
      RuleEffect i s (s.putRes a b)
  | identifier (hi : (∃ l, i = .oidDec l) ∨ ∃ alg, i = .oidLdalg alg) (o : List Nat) (a b : Nat) :
      RuleEffect i s ((s.putOid o).putRes a b)

/-- `DBUF` holds 128 bytes and a number of `KMAX` bytes (00_scope.md R11). -/
theorem State.Inv.le_dbufSize {s : State} (h : s.Inv) : 128 ≤ s.cfg.dbufSize ∧ s.cfg.kmax ≤ s.cfg.dbufSize := by
  obtain ⟨-, -, hk, -, -, h128, -, -, -⟩ := (Config.wf_iff s.cfg).1 h.cfg_wf
  exact ⟨h128, hk⟩

/-- A string shorter than the smallest `DBUF` fits. -/
theorem RuleEffect.stored_short {i : Instr} {s : State} {x : Bytes} (hx : x.length ≤ 128) :
    RuleEffect i s (s.putDbuf x) :=
  .stored x fun h => hx.trans h.le_dbufSize.1

/-- An encoded message has the length asked for (47_pkcs1.md R312). -/
theorem length_of_emsa_ok {form : EmsaTForm} {row : AlgRow} {h em : Bytes} {emLen : Nat}
    (he : emsa form row h emLen = .ok em) : em.length = emLen := by
  simp only [emsa, check_ok] at he
  obtain ⟨-, he⟩ := he
  cases ht : buildT form row h with
  | error x => simp [ht] at he
  | ok t =>
    simp only [ht, check_ok, Except.ok.injEq] at he
    obtain ⟨hlen, rfl⟩ := he
    simp only [List.cons_append, List.length_cons, List.length_append, List.length_replicate]
    omega

/-- An encoded algorithm identifier has at most fifteen bytes (46_der.md R297). -/
theorem length_algidEnc_le {alg : BitVec 4} {row : AlgRow} {e : Bytes} (hr : algOf alg = some row)
    (he : algidEnc row = .ok e) : e.length ≤ 15 := by
  have ha : alg.toNat < 9 := Nat.lt_of_not_le fun h => by simp [algOf_none h] at hr
  obtain ⟨row', hr', -, -, he', hlen, h15, -⟩ := algOf_some ha
  obtain rfl : row = row' := Option.some.inj (hr.symm.trans hr')
  obtain rfl : e = algidBytes alg := Except.ok.inj (he.symm.trans he')
  omega

/-- A DER length has at most five bytes (46_der.md R281). -/
theorem length_derlen_le {v : Nat} (h : v < 2 ^ 31) : (derlen v).length ≤ 5 := by
  have : bytelen v ≤ 4 := bytelen_le (h.trans (by norm_num))
  rw [length_derlen]
  split <;> omega

theorem length_flatMap_base128_le {o : List Nat} (h : ∀ c ∈ o, c < 2 ^ 32) :
    (o.flatMap base128).length ≤ 5 * o.length := by
  induction o with
  | nil => exact le_rfl
  | cons c o ih =>
    have hc := length_base128_le (h c List.mem_cons_self)
    have ho := ih fun d hd => h d (List.mem_cons_of_mem c hd)
    simp only [List.flatMap_cons, List.length_append, List.length_cons]
    omega

/-- An encoded identifier of 32-bit components has at most 73 bytes: sixteen components, two in the first byte. -/
theorem length_oidEnc_le {o : List Nat} {e : Bytes} (h : ∀ c ∈ o, c < 2 ^ 32) (he : oidEnc o = .ok e) :
    e.length ≤ 73 := by
  match o with
  | [] | [_] => simp [oidEnc] at he
  | v0 :: v1 :: others =>
    simp only [oidEnc, check_ok, Except.ok.injEq] at he
    obtain ⟨h16, -, -, -, rfl⟩ := he
    simp only [List.length_cons, Config.oidMax] at h16
    have hv : (oidValue v0 v1 others).length ≤ 71 := by
      have := length_flatMap_base128_le fun c hc => h c (List.mem_cons_of_mem v0 (List.mem_cons_of_mem v1 hc))
      simp only [oidValue, List.length_cons]
      omega
    rw [derlen_short (by omega)]
    simp only [List.cons_append, List.nil_append, List.length_cons]
    omega

theorem State.components_lt (s : State) : ∀ c ∈ s.components, c < 2 ^ 32 := by
  intro c hc
  obtain ⟨i, -, rfl⟩ := List.mem_map.1 hc
  exact BitVec.isLt _

/-- The Pair form's signature is below the modulus. -/
theorem rsasp1Pair_lt {n d m v : Nat} (h : rsasp1Pair n d m = .ok v) : v < n := by
  simp only [rsasp1Pair, check_ok, Except.ok.injEq] at h
  obtain ⟨hm, rfl⟩ := h
  exact modexp_lt m d (by omega)

/-- A result that passes RSA.SP1's last check fits a register, in both forms (45_rsa.md R262). -/
theorem State.Inv.rsasp1_lt {form : KeyForm} {s : State} {v : Nat} (h : s.Inv)
    (hv : s.rsasp1 form (s.bnVal regM) = .ok v) (hmp : ¬(form = .multiPrime ∧ v ≥ 2 ^ (8 * s.cfg.kmax))) :
    v < 2 ^ (8 * s.cfg.kmax) := by
  cases form with
  | pair => exact (rsasp1Pair_lt hv).trans (h.bn_fits regN)
  | multiPrime => exact Nat.lt_of_not_le fun hle => hmp ⟨rfl, hle⟩

theorem ruleOf_effect {i : Instr} {s t : State} (h : ruleOf i s = .ok t) : RuleEffect i s t := by
  cases i with
  | nop => cases h; exact .nothing rfl
  | aesKeyexp ks =>
    obtain ⟨m, -, hp, rfl⟩ := aesKeyexpRule_ok h
    exact .schedule ⟨ks, rfl⟩ hp _ m
  | sesInit d c p =>
    obtain ⟨pad, -, hk, rfl⟩ := sesInitRule_ok h
    exact .opened hk d c pad
  | sesUpdate l =>
    obtain ⟨hp, -, hq, rfl⟩ := sesUpdateRule_ok h
    exact .absorbed hp _ (by rwa [State.length_dbuf])
  | sesFinal l =>
    obtain ⟨hp, -, -, hq, rfl⟩ := sesFinalRule_ok h
    exact .ended hp _ (by rwa [State.length_dbuf])
  | aesEncb l | aesDecb l =>
    obtain ⟨-, -, rfl⟩ := blockRule_ok h
    exact .stored_short (by simp)
  | gfMul l =>
    obtain ⟨-, rfl⟩ := gfMulRule_ok h
    exact .stored_short (by simp)
  | stSubbytes l | stInvsubbytes l | stShiftrows l | stInvshiftrows l | stMixcolumns l | stInvmixcolumns l =>
    obtain ⟨-, rfl⟩ := stRule_ok h
    exact .stored_short (by simp)
  | stAddroundkey r l =>
    obtain ⟨-, -, -, rfl⟩ := stAddroundkeyRule_ok h
    exact .stored_short (by simp)
  | bnLd r l =>
    obtain ⟨hr, hl, rfl⟩ := bnLdRule_ok h
    refine .loaded r _ hr fun _ => ?_
    calc os2ip (s.dbuf l.toNat) < 256 ^ l.toNat := by simpa using os2ip_lt (s.dbuf l.toNat)
      _ ≤ 256 ^ s.cfg.kmax := Nat.pow_le_pow_right (by norm_num) hl
      _ = 2 ^ (8 * s.cfg.kmax) := pow256 _
  | bnSt r l =>
    obtain ⟨-, hl, -, -, rfl⟩ := bnStRule_ok h
    exact .stored _ fun _ => by rwa [length_bigEndian]
  | rsaSp1 f =>
    obtain ⟨v, -, -, hv, hmp, rfl⟩ := rsaSp1Rule_ok h
    exact .loaded regS v rfl fun hs => hs.rsasp1_lt hv hmp
  | rsaVp1 =>
    obtain ⟨-, -, hlt, rfl⟩ := rsaVp1Rule_ok h
    exact .loaded regM _ rfl fun hs => (modexp_lt _ _ (by omega)).trans (hs.bn_fits regN)
  | emsaEnc a l =>
    obtain ⟨_, em, -, hl, -, hem, rfl⟩ := emsaEncRule_ok h
    exact .stored em fun _ => by rwa [length_of_emsa_ok hem]
  | pkcsSign a f =>
    obtain ⟨_, _, v, -, -, -, -, -, -, rfl⟩ := pkcsSignRule_ok h
    refine .stored _ fun hs => ?_
    have hN : bytelen (s.bnVal regN) ≤ s.cfg.kmax := bytelen_le (pow256 _ ▸ hs.bn_fits regN)
    rw [length_bigEndian]
    exact hN.trans hs.le_dbufSize.2
  | pkcsVerify a l =>
    obtain ⟨_, -, -, -, rfl⟩ := pkcsVerifyRule_ok h
    exact .results (.inr ⟨a, l, rfl⟩) _ _
  | derLenenc =>
    obtain ⟨hv, rfl⟩ := derLenencRule_ok h
    exact .stored_short ((length_derlen_le hv).trans (by norm_num))
  | derLendec l =>
    obtain ⟨_, _, -, -, rfl⟩ := derLendecRule_ok h
    exact .results (.inl ⟨l, rfl⟩) _ _
  | oidEnc =>
    obtain ⟨_, he, rfl⟩ := oidEncRule_ok h
    exact .stored_short ((length_oidEnc_le s.components_lt he).trans (by norm_num))
  | oidDec l =>
    obtain ⟨_, _, -, -, rfl⟩ := oidDecRule_ok h
    exact .identifier (.inl ⟨l, rfl⟩) _ _ _
  | algidEnc a =>
    obtain ⟨_, _, hr, he, rfl⟩ := algidEncRule_ok h
    exact .stored_short ((length_algidEnc_le hr he).trans (by norm_num))
  | oidLdalg a =>
    obtain ⟨_, -, rfl⟩ := oidLdalgRule_ok h
    exact .identifier (.inr ⟨a, rfl⟩) _ _ _

/-! ## The output queue (10_state.md R45) -/

/-- Emitting appends one `BLOCK` item for each block. -/
theorem State.emit_outq_blocks (s : State) (bs : List Block) :
    ∃ cs : List Block, (s.emit bs).outq = s.outq ++ cs.map .block ∧ cs.length = bs.length :=
  ⟨_, rfl, length_xformAll ..⟩

/-- Absorbing appends one `BLOCK` item for each complete block (43_modes.md R206). -/
theorem State.absorb_outq_blocks (s : State) (x : Bytes) :
    ∃ cs : List Block, (s.absorb x).outq = s.outq ++ cs.map .block ∧
      cs.length = (s.bufLen.toNat + x.length) / 16 := by
  obtain ⟨cs, hq, hl⟩ := s.emit_outq_blocks (chunks ((s.buffered ++ x).length / 16) (s.buffered ++ x))
  exact ⟨cs, hq, by simpa using hl⟩

theorem length_padBlocks (pad : Pad) (rest : Bytes) : (padBlocks pad rest).length = padCount pad rest.length := by
  cases pad with
  | none | pkcs7 => rfl
  | zero => simp only [padBlocks, padCount]; split <;> rfl

/-- The end of a session appends the padding's `BLOCK` items and the `END` item (43_modes.md R211). -/
theorem State.endSession_outq_blocks (s : State) :
    ∃ cs : List Block, s.endSession.outq = s.outq ++ cs.map .block ++ [.endMark] ∧
      cs.length = padCount s.pad s.bufLen.toNat := by
  obtain ⟨cs, hq, hl⟩ := s.emit_outq_blocks (padBlocks s.pad s.buffered)
  exact ⟨cs, congrArg (· ++ [OutItem.endMark]) hq, by rwa [length_padBlocks, length_buffered] at hl⟩

theorem endMark_not_mem_append_blocks {q : List OutItem} (h : OutItem.endMark ∉ q) (cs : List Block) :
    OutItem.endMark ∉ q ++ cs.map .block := by
  simp [h]

/-! ## The invariant (10_state.md R51), operation by operation -/

section
variable {s : State} (h : s.Inv)
include h

theorem State.Inv.withAgenda (es : List Event) : (s.withAgenda es).Inv := { h with }

theorem State.Inv.respond (r : BusResponse) : (s.respond r).Inv := { h with }

theorem State.Inv.answerBusy (a : Access) : (s.answerBusy a).Inv := by
  obtain ⟨r, k, he⟩ := s.answerBusy_eq a
  exact he ▸ { h with }

theorem State.Inv.putRes (a b : Nat) : (s.putRes a b).Inv := { h with }

theorem State.Inv.putOid (o : List Nat) : (s.putOid o).Inv := { h with }

theorem State.Inv.clearAll : s.clearAll.Inv := { State.Inv.resetOf h.cfg_wf with }

theorem State.Inv.clearError : s.clearError.Inv :=
  { h with
    err_iff_code := ⟨fun _ => rfl, fun _ => rfl⟩
    done_no_err := fun _ => rfl
    busy_clear := fun he => ⟨(h.busy_clear he).1, rfl⟩ }

theorem State.Inv.popOutput : s.popOutput.Inv :=
  { h with
    outq_fits := (List.tail_sublist _).length_le.trans h.outq_fits
    end_is_last := fun hm => h.end_is_last (List.mem_of_mem_tail (List.tail_dropLast .. ▸ hm))
    end_only_finished := fun hm => h.end_only_finished (List.mem_of_mem_tail hm) }

/-- A write of `CMD`: a command is accepted only when `ERR = 0` (20_memory.md R83). -/
theorem State.Inv.writeCmd (c : Word) : (s.writeCmd c).Inv := by
  unfold State.writeCmd
  cases he : s.err with
  | true => exact h
  | false =>
    exact { h with
      done_no_err := fun hd => absurd hd Bool.false_ne_true
      busy_clear := fun _ => ⟨rfl, he⟩ }

theorem State.Inv.ctrlAction (v : Word) : (s.ctrlAction v).Inv := by
  rcases s.ctrlAction_cases v with hc | hc | hc | hc | hc <;> rw [hc]
  · exact h.clearAll
  · exact h
  · exact h.clearError
  · exact h.popOutput
  · exact h.clearError.popOutput

/-- Storing bytes inside the byte windows. -/
theorem State.Inv.writeBytes {off : Nat} {x : Bytes}
    (hw : ∀ a, off ≤ a → a < off + x.length → inWindow s.cfg a = true) :
    ({ s with mem := Memory.writeBytes s.mem off x } : State).Inv :=
  { h with
    mem_wf := Memory.wf_writeBytes x off h.mem_wf
    mem_in_windows := fun c hc =>
      (Memory.mem_writeBytes x s.mem off c hc).elim (h.mem_in_windows c) fun hr => hw c.1 hr.1 hr.2 }

theorem State.Inv.hostEffect {t : State} (ht : HostEffect s t) : t.Inv := by
  cases ht with
  | command v => exact h.writeCmd v
  | control v => exact h.ctrlAction v
  | registers => exact { h with }
  | window off x hw => exact h.writeBytes hw

theorem State.Inv.hostAccess (a : Access) : (s.hostAccess a).Inv := by
  obtain ⟨t, r, ht, he⟩ := s.hostAccess_effect a
  exact he ▸ (h.hostEffect ht).respond r

theorem State.Inv.putDbuf {x : Bytes} (hx : x.length ≤ s.cfg.dbufSize) : (s.putDbuf x).Inv :=
  { h.writeBytes (off := dbufBase) (x := x) fun a h1 h2 => by simp [inWindow]; omega with
    dlen_fits := by
      rw [State.putDbuf_dlen, BitVec.toNat_ofNat]
      exact (Nat.mod_le _ _).trans hx }

theorem State.Inv.putBn {r : BitVec 6} {v : Nat} (hr : bnRegExists s.cfg r = true)
    (hv : v < 2 ^ (8 * s.cfg.kmax)) : (s.putBn r v).Inv :=
  { h with
    bn_fits := fun q => by
      rw [State.bnVal_putBn]
      split
      · exact hv
      · exact h.bn_fits q
    bn_unloaded_zero := fun q hq => by
      rw [State.bnValid_putBn] at hq
      rw [State.bnVal_putBn]
      split at hq
      · cases hq
      · rw [if_neg ‹_›]; exact h.bn_unloaded_zero q hq
    bn_loaded_exists := fun q hq => by
      rw [State.bnValid_putBn] at hq
      split at hq
      · subst q; exact hr
      · exact h.bn_loaded_exists q hq }

/-- An ACTIVE session's queue holds no `END`. -/
theorem State.Inv.endMark_not_mem (hp : s.phase = .active) : OutItem.endMark ∉ s.outq := fun hm => by
  have := h.end_only_finished hm
  simp [hp] at this

theorem State.Inv.absorb (hp : s.phase = .active) {x : Bytes}
    (hq : s.outq.length + (s.bufLen.toNat + x.length) / 16 ≤ s.cfg.outqDepth) : (s.absorb x).Inv := by
  obtain ⟨cs, ho, hl⟩ := s.absorb_outq_blocks x
  have hno : OutItem.endMark ∉ (s.absorb x).outq :=
    ho ▸ endMark_not_mem_append_blocks (h.endMark_not_mem hp) cs
  exact { h with
    outq_fits := by
      rw [ho, List.length_append, List.length_map, hl]
      exact hq
    end_is_last := fun hm => hno (List.mem_of_mem_dropLast hm)
    end_only_finished := fun hm => absurd hm hno }

theorem State.Inv.endSession (hp : s.phase = .active)
    (hq : s.outq.length + padCount s.pad s.bufLen.toNat + 1 ≤ s.cfg.outqDepth) : s.endSession.Inv := by
  obtain ⟨cs, ho, hl⟩ := s.endSession_outq_blocks
  exact { h with
    session_has_key := fun _ => h.session_has_key (by simp [hp])
    outq_fits := by
      rw [ho, List.length_append, List.length_append, List.length_map, hl]
      exact hq
    end_is_last := by
      rw [ho, List.dropLast_concat]
      exact endMark_not_mem_append_blocks (h.endMark_not_mem hp) cs
    end_only_finished := fun _ => rfl }

/-- Every command's rule keeps the invariant. -/
theorem State.Inv.ruleEffect {i : Instr} {t : State} (ht : RuleEffect i s t) : t.Inv := by
  cases ht with
  | nothing => exact h
  | schedule => exact { h with session_has_key := fun _ => rfl }
  | opened hk =>
    exact { h with
      session_has_key := fun _ => hk
      outq_fits := Nat.zero_le _
      end_is_last := List.not_mem_nil
      end_only_finished := fun hm => absurd hm List.not_mem_nil }
  | absorbed hp x hq => exact h.absorb hp hq
  | ended hp x hq =>
    obtain ⟨cs, ho, hl⟩ := s.absorb_outq_blocks x
    refine (h.absorb hp (by omega)).endSession hp ?_
    rw [ho, List.length_append, List.length_map, hl, State.absorb_bufLen_toNat]
    exact hq
  | stored x hx => exact h.putDbuf (hx h)
  | loaded r v hr hv => exact h.putBn hr (hv h)
  | results hi a b => exact h.putRes a b
  | identifier hi o a b => exact (h.putOid o).putRes a b

/-- Completion, which no command reaches with `ERR = 1` (48_system.md R340). -/
theorem State.Inv.complete (he : s.err = false) : s.complete.Inv :=
  { h with
    done_no_err := fun _ => he
    busy_clear := fun hi => absurd rfl hi }

/-- Taking an exception, which no command reaches with `DONE = 1` (60_exceptions.md R364). -/
theorem State.Inv.raise (hd : s.done = false) (x : Exc) (c : Word) : (s.raise x c).Inv :=
  { h with
    err_iff_code := ⟨fun he => absurd he.symm Bool.false_ne_true, fun hc => by cases x <;> cases hc⟩
    done_no_err := fun hd' => absurd (hd.symm.trans hd') Bool.false_ne_true
    busy_clear := fun hi => absurd rfl hi }

/-- The commit point of a running command. -/
theorem State.Inv.commit {c : Word} {t : State} (hr : s.engine ≠ .idle) (hc : Machine.commit c s = .next t) :
    t.Inv := by
  obtain ⟨hd, he⟩ := h.busy_clear hr
  rcases commit_cases c s with ⟨i, -, hi⟩ | ⟨_, -, hi⟩
  · rw [hi, exec_eq] at hc
    rcases finish_next hc with ⟨u, hu, rfl⟩ | ⟨x, -, rfl⟩
    · exact (h.ruleEffect (ruleOf_effect hu)).complete ((ruleOf_keeps hu).err.trans he)
    · exact h.raise hd x _
  · rw [hi] at hc
    cases hc
    exact h.raise hd _ c

end

/-! ## The step -/

theorem engineMoment_next (s : State) : ∃ t, engineMoment s = .next t := by
  unfold engineMoment
  cases s.engine with
  | idle => exact ⟨s, rfl⟩
  | running c => exact (commit_next c s).imp fun _ h => h.1

/-- The machine always goes on. -/
theorem step_runs (s : State) : Runs s := by
  unfold Runs step moveOn
  match s.agenda with
  | [] => exact engineMoment_next s
  | .reset :: es => exact ⟨_, rfl⟩
  | .engine :: es => exact engineMoment_next _
  | .host a :: es =>
    cases s.engine with
    | idle => exact ⟨_, rfl⟩
    | running c =>
      dsimp only
      split
      · exact ⟨_, rfl⟩
      · exact (commit_next c s).imp fun _ h => h.1

theorem HostEffect.cfg_eq {s t : State} (h : HostEffect s t) : t.cfg = s.cfg := by
  cases h with
  | command v => unfold State.writeCmd; split <;> rfl
  | control v =>
    rcases s.ctrlAction_cases v with hc | hc | hc | hc | hc <;> rw [hc] <;> rfl
  | registers | window => rfl

/-- No step writes the parameters (log entry 1). -/
theorem step_cfg {s t : State} (h : step s = .next t) : t.cfg = s.cfg := by
  rcases step_cases h with ⟨-, -, rfl⟩ | ⟨es, -, -, rfl⟩ |
    ⟨c, es, -, hc, -⟩ | ⟨es, -, rfl⟩ | ⟨a, es, -, -, rfl⟩ |
    ⟨c, a, es, -, -, -, rfl⟩
  · rfl
  · rfl
  · obtain ⟨t', ht', -, hcfg, -⟩ := commit_next c (s.withAgenda es)
    cases hc.symm.trans ht'
    exact hcfg
  · rfl
  · obtain ⟨t, r, ht, he⟩ := (s.withAgenda es).hostAccess_effect a
    rw [he]
    exact ht.cfg_eq
  · obtain ⟨r, k, he⟩ := (s.withAgenda es).answerBusy_eq a
    rw [he]
    rfl

theorem State.Inv.step {s t : State} (h : s.Inv) (ht : step s = .next t) : t.Inv := by
  rcases step_cases ht with ⟨-, -, rfl⟩ | ⟨es, -, -, rfl⟩ |
    ⟨c, es, he, hc, -⟩ | ⟨es, -, rfl⟩ | ⟨a, es, -, -, rfl⟩ |
    ⟨c, a, es, -, -, -, rfl⟩
  · exact h
  · exact h.withAgenda es
  · exact (h.withAgenda es).commit (by simp [he]) hc
  · exact (h.withAgenda es).clearAll
  · exact (h.withAgenda es).hostAccess a
  · exact (h.withAgenda es).answerBusy a

/-- Settles O60: by cases on what a step can be; a commit point by the effect of the command's rule, a HOST access by
its effect. -/
theorem everyStepKeepsInvariant : Obligations.EveryStepKeepsInvariant := by
  intro s h
  obtain ⟨t, ht⟩ := step_runs s
  exact ⟨t, ht, h.step ht, step_cfg ht⟩

/-! ## State no command, or only a named command, writes -/

/-- The commit point of any command: its rule's effect, completed, or an exception. -/
theorem exec_effect {i : Instr} {s t : State} (h : exec i s = .next t) :
    (∃ u, RuleKeeps s u ∧ RuleEffect i s u ∧ t = u.complete) ∨ ∃ x, t = s.raise x (encode i) := by
  rw [exec_eq] at h
  rcases finish_next h with ⟨u, hu, ht⟩ | ⟨x, -, ht⟩
  · exact .inl ⟨u, ruleOf_keeps hu, ruleOf_effect hu, ht⟩
  · exact .inr ⟨x, ht⟩

/-- Below `DBUF` no command writes memory (R36, R40, R41, R44). -/
theorem RuleEffect.read_below_dbuf {i : Instr} {s t : State} (h : RuleEffect i s t) {a : Nat} (ha : a < dbufBase) :
    Memory.read t.mem a = Memory.read s.mem a := by
  cases h with
  | stored x => exact s.read_putDbuf_other x (by omega)
  | nothing | schedule | opened | absorbed | ended | loaded | results | identifier => rfl

/-- No command clears a valid bit (R22). -/
theorem RuleEffect.bnValid_of {i : Instr} {s t : State} (h : RuleEffect i s t) {r : BitVec 6}
    (hr : s.bnValid r = true) : t.bnValid r = true := by
  cases h with
  | loaded q v => rw [State.bnValid_putBn, hr, ite_self]
  | nothing | schedule | opened | absorbed | ended | stored | results | identifier => exact hr

/-- AES.KEYEXP alone writes the key schedule, and not while a session is ACTIVE (R47, 41_key_expansion.md R176). -/
theorem RuleEffect.schedule_cases {i : Instr} {s t : State} (h : RuleEffect i s t) :
    (t.w = s.w ∧ t.aesMode = s.aesMode ∧ t.kvalid = s.kvalid) ∨
      (∃ ks, i = .aesKeyexp ks) ∧ s.phase ≠ .active ∧ t.kvalid = true := by
  cases h with
  | schedule hi hp => exact .inr ⟨hi, hp, rfl⟩
  | nothing | opened | absorbed | ended | stored | loaded | results | identifier => exact .inl ⟨rfl, rfl, rfl⟩

/-- Four commands write the results (R34). -/
theorem RuleEffect.results_cases {i : Instr} {s t : State} (h : RuleEffect i s t) :
    (t.res0 = s.res0 ∧ t.res1 = s.res1) ∨ (∃ l, i = .derLendec l) ∨ (∃ l, i = .oidDec l) ∨
      (∃ alg, i = .oidLdalg alg) ∨ (∃ alg l, i = .pkcsVerify alg l) := by
  cases h with
  | results hi => exact .inr (hi.imp_right fun hv => .inr (.inr hv))
  | identifier hi => exact .inr (.inr (hi.imp_right .inl))
  | nothing | schedule | opened | absorbed | ended | stored | loaded => exact .inl ⟨rfl, rfl⟩

/-- Settles O19: an exception writes none of this, and a rule's effect is read off case by case. -/
theorem onlyTheNamedCommandsWrite : Obligations.OnlyTheNamedCommandsWrite := by
  intro i s t h
  rcases exec_effect h with ⟨u, hk, hu, rfl⟩ | ⟨x, rfl⟩
  · refine ⟨⟨hk.cfg, hk.irqen, hk.arg0, hk.hlen, hk.nap⟩, fun a => hu.read_below_dbuf, fun r => hu.bnValid_of,
      fun hv => ?_, fun hne => ?_, fun hne => ?_⟩
    · rcases hu.schedule_cases with ⟨-, -, e⟩ | ⟨-, -, e⟩
      · exact e.trans hv
      · exact e
    · exact hu.results_cases.resolve_left fun ⟨e0, e1⟩ => hne.elim (· e0) (· e1)
    · rcases hu.schedule_cases with ⟨ew, em, -⟩ | ⟨hi, -, -⟩
      · exact absurd hne (by simp [ew, em])
      · exact hi
  · exact ⟨⟨rfl, rfl, rfl, rfl, rfl⟩, fun _ _ => rfl, fun _ hv => hv, id, by simp, by simp⟩

/-! ## The key schedule while a session is ACTIVE -/

/-- A HOST access leaves the key schedule, unless it zeroizes. -/
theorem HostEffect.schedule_cases {s t : State} (h : HostEffect s t) :
    (t.w = s.w ∧ t.aesMode = s.aesMode ∧ t.kvalid = s.kvalid) ∨ t.phase = .idle := by
  cases h with
  | command v =>
    unfold State.writeCmd
    split <;> exact .inl ⟨rfl, rfl, rfl⟩
  | control v =>
    rcases s.ctrlAction_cases v with hc | hc | hc | hc | hc <;> rw [hc]
    · exact .inr rfl
    all_goals exact .inl ⟨rfl, rfl, rfl⟩
  | registers | window => exact .inl ⟨rfl, rfl, rfl⟩

/-- So does the commit point of any word in an ACTIVE session. -/
theorem commit_schedule {c : Word} {s t : State} (h : commit c s = .next t) (hp : s.phase = .active) :
    t.w = s.w ∧ t.aesMode = s.aesMode ∧ t.kvalid = s.kvalid := by
  rcases commit_cases c s with ⟨i, -, hi⟩ | ⟨_, -, hi⟩ <;> rw [hi] at h
  · rcases exec_effect h with ⟨u, -, hu, rfl⟩ | ⟨x, rfl⟩
    · exact hu.schedule_cases.resolve_right fun ⟨_, hne, _⟩ => hne hp
    · exact ⟨rfl, rfl, rfl⟩
  · cases h
    exact ⟨rfl, rfl, rfl⟩

/-- Settles O37, by cases on what a step can be. -/
theorem scheduleFixedWhileSessionActive : Obligations.ScheduleFixedWhileSessionActive := by
  intro s t h hp ht
  rcases step_cases h with ⟨-, -, rfl⟩ | ⟨es, -, -, rfl⟩ |
    ⟨c, es, -, hc, -⟩ | ⟨es, -, rfl⟩ | ⟨a, es, -, -, rfl⟩ |
    ⟨c, a, es, -, -, -, rfl⟩
  · exact ⟨rfl, rfl, rfl⟩
  · exact ⟨rfl, rfl, rfl⟩
  · exact commit_schedule (s := s.withAgenda es) hc hp
  · exact absurd rfl ht
  · obtain ⟨u, r, hu, he⟩ := (s.withAgenda es).hostAccess_effect a
    rw [he] at ht ⊢
    exact hu.schedule_cases.resolve_right ht
  · obtain ⟨r, k, he⟩ := (s.withAgenda es).answerBusy_eq a
    rw [he]
    exact ⟨rfl, rfl, rfl⟩

/-! ## What the HOST reads, and the interrupt output (10_state.md section 5) -/

/-- A 4-byte read at a register's offset answers the register. -/
theorem State.resp_read_register (s : State) {off : Nat} {r : Reg32} (hm : ⟨off, 4, .reg r⟩ ∈ registerRows) :
    (s.hostAccess (.read (s.cfg.base + off) .word)).resp = some (.data (s.readReg r)) := by
  have inBlock : ∀ row ∈ registerRows, row.base < 0x4000 := by decide
  rw [State.hostAccess_read (inBlock _ hm), State.busRead_register (legalRow_register s.cfg hm), State.respond_resp]

/-- The registers that show one field of the state, or `ID`, with their offsets (20_memory.md R71). -/
def plainRegisters : List (Nat × Reg32) :=
  [(0x00, .id), (0x0C, .errcode), (0x10, .errcmd), (0x18, .irqen), (0x1C, .arg0), (0x20, .res0), (0x24, .res1),
    (0x28, .dlen), (0x2C, .hlen), (0x34, .oidn), (0x38, .nap)]

theorem plainRegisters_rows : ∀ p ∈ plainRegisters, ⟨p.1, 4, .reg p.2⟩ ∈ registerRows := by decide

/-- A 1-byte read in a byte window answers the byte with zeros above. -/
theorem State.resp_read_byte (s : State) {off : Nat} {row : MapRow} (ho : off < 0x4000) (hm : row ∈ windowRows s.cfg)
    (hn : row.target.narrow = true) (h1 : row.base ≤ off) (h2 : off < row.base + row.size) :
    (s.hostAccess (.read (s.cfg.base + off) .byte)).resp =
      some (.data ((s.windowByte row.target off).setWidth 32)) := by
  rw [State.hostAccess_read ho,
    State.busRead_byte (legalRow_window s.cfg hm hn (Nat.mod_one off) h1 h2) hn, State.respond_resp]

/-- A byte of a window that can be read back is the byte of the memory. -/
theorem State.resp_read_memory (s : State) {off : Nat}
    (h : (0x50 ≤ off ∧ off < 0x60) ∨ (0xC0 ≤ off ∧ off < 0x100) ∨
      (s.cfg.wf = true ∧ 0x1000 ≤ off ∧ off < 0x1000 + s.cfg.dbufSize)) :
    (s.hostAccess (.read (s.cfg.base + off) .byte)).resp = some (.data ((Memory.read s.mem off).setWidth 32)) := by
  rcases h with ⟨h1, h2⟩ | ⟨h1, h2⟩ | ⟨hwf, h1, h2⟩
  · exact s.resp_read_byte (row := ⟨ivBase, 16, .iv⟩) (by omega) (by simp [windowRows]) rfl h1 h2
  · exact s.resp_read_byte (row := ⟨hbufBase, 64, .hbuf⟩) (by omega) (by simp [windowRows]) rfl h1 h2
  · obtain ⟨-, -, -, -, -, -, hsize, -, -⟩ := (Config.wf_iff s.cfg).1 hwf
    exact s.resp_read_byte (row := ⟨dbufBase, s.cfg.dbufSize, .dbuf⟩) (by omega) (by simp [windowRows]) rfl h1 h2

/-- Byte i of `OUTHEAD`. -/
theorem State.resp_read_outhead (s : State) {i : Nat} (hi : i < 16) :
    (s.hostAccess (.read (s.cfg.base + 0x40 + i) .byte)).resp = some (.data ((s.outheadByte i).setWidth 32)) := by
  have h := s.resp_read_byte (off := 0x40 + i) (row := ⟨0x40, 16, .outhead⟩) (by omega) (by simp [windowRows]) rfl
    (Nat.le_add_right ..) (Nat.add_lt_add_left hi _)
  rwa [State.windowByte, Nat.add_sub_cancel_left, ← Nat.add_assoc] at h

/-- A concatenation as a number. -/
theorem toNat_append_add {n m : Nat} (x : BitVec n) (y : BitVec m) :
    (x ++ y).toNat = x.toNat * 2 ^ m + y.toNat := by
  rw [BitVec.toNat_append, ← Nat.shiftLeft_add_eq_or_of_lt y.isLt, Nat.shiftLeft_eq]

/-- `STATUS` as a number, field by field (R28). -/
theorem State.toNat_statusWord (s : State) : s.statusWord.toNat =
    s.busy.toNat + 2 * s.done.toNat + 4 * s.err.toNat + 8 * s.kvalid.toNat + 16 * s.phase.code.toNat +
      64 * s.dir.bit.toNat + 128 * s.chainMode.bit.toNat + 256 * s.pad.code.toNat + 1024 * s.aesMode.code.toNat +
      65536 * s.bufLen.toNat := by
  simp only [State.statusWord, toNat_append_add, BitVec.toNat_ofBool, BitVec.toNat_ofNat]
  omega

/-- `OUTSTAT` as a number (R37). -/
theorem State.toNat_outstatWord {s : State} (h : s.outq.length ≤ 255) :
    s.outstatWord.toNat = s.headKind.toNat + 256 * s.outq.length := by
  simp only [State.outstatWord, toNat_append_add, BitVec.toNat_ofNat]
  omega

/-- Settles O57, offset by offset. -/
theorem statusAndInterruptViews : Obligations.StatusAndInterruptViews := by
  intro s he
  refine ⟨fun off v hm => ?_, fun i hi => ?_,
    fun off h => ⟨_, s.resp_read_memory h, BitVec.toNat_setWidth_of_le (by decide)⟩,
    ⟨_, s.resp_read_register (r := .status) (by decide), ?_⟩,
    fun hq => ⟨_, s.resp_read_register (r := .outstat) (by decide), ?_⟩,
    fun i hi => ⟨_, s.resp_read_outhead hi, ?_⟩, ?_⟩
  · obtain ⟨⟨off, r⟩, hr, hv⟩ :=
      List.mem_map.1 (show (off, v) ∈ plainRegisters.map fun p => (p.1, s.readReg p.2) from hm)
    cases hv
    exact s.resp_read_register (plainRegisters_rows _ hr)
  · rw [State.hostAccess_read (by omega), State.busRead_oidv s hi, State.respond_resp]
  · have hb : s.busy.toNat = 0 := by simp [State.busy, he]
    rw [State.readReg, State.toNat_statusWord, hb, Nat.zero_add]
    congr 6
    · cases s.phase <;> rfl
    · cases s.dir <;> rfl
    · cases s.chainMode <;> rfl
    · cases s.pad <;> rfl
    · cases s.aesMode <;> rfl
  · rw [State.readReg, State.toNat_outstatWord hq, State.headKind]
    congr 1
    rcases s.outq with _ | ⟨_ | _, q⟩ <;> rfl
  · unfold State.outheadByte
    rcases s.outq with _ | ⟨_ | _, q⟩ <;> rfl
  · simp only [State.irq, Bool.or_eq_true, Bool.and_eq_true, Bool.not_eq_true', List.isEmpty_eq_false_iff, or_assoc]

end Sys2Proof.Machine
end

section
/-! SUPPORT. Proofs about the bus and the order of accesses (20_memory.md). -/

namespace Sys2Proof.Machine

open Sys2Proof

/-! ## Held accesses (20_memory.md R85) -/

/-- The step at a held access: the running command's commit point, the access still first. -/
theorem step_held {s : State} {c : Word} {a : Access} {es : List Event} (he : s.engine = .running c)
    (h : s.agenda = .host a :: es) (ha : a.answeredWhileBusy s.cfg = false) : step s = commit c s := by
  simp only [step, moveOn, h, he, ha, Bool.false_eq_true, if_false]

/-- Settles O7: a commit point always answers an idle machine with the same agenda, and an idle machine performs its
first access. -/
theorem heldAccessSeesPostCommandState : Obligations.HeldAccessSeesPostCommandState := by
  intro s c a es he h ha
  obtain ⟨t, ht, hidle, -, hagenda⟩ := commit_next c s
  rw [h] at hagenda
  exact ⟨t, ht, (step_held he h ha).trans ht, hidle, hagenda, step_host_idle hidle hagenda⟩

/-! ## Writes of 32-bit registers (20_memory.md R75) -/

/-- A 4-byte write at a register's offset writes the register. -/
theorem State.hostAccess_writeReg (s : State) {off : Nat} {r : Reg32} (hm : ⟨off, 4, .reg r⟩ ∈ registerRows)
    (v : Word) : s.hostAccess (.write (s.cfg.base + off) .word v) = (s.writeReg r v).respond .written := by
  have inBlock : ∀ row ∈ registerRows, row.base < 0x4000 := by decide
  exact State.hostAccess_write (inBlock _ hm) (legalRow_register s.cfg hm) v

theorem State.writeCmd_accepted (s : State) (h : s.err = false) (c : Word) : s.writeCmd c = s.accept c := by
  simp only [State.writeCmd, h, Bool.false_eq_true, if_false]

theorem State.writeCmd_dropped (s : State) (h : s.err = true) (c : Word) : s.writeCmd c = s := by
  simp only [State.writeCmd, h, if_true]

/-- Settles O6, by the two cases of a write of `CMD`. -/
theorem commandWriteAcceptedOrDropped : Obligations.CommandWriteAcceptedOrDropped := by
  intro s c es he h
  have hstep : step s = .next (((s.withAgenda es).writeCmd c).respond .written) :=
    (step_host_idle he h).trans
      (congrArg _ ((s.withAgenda es).hostAccess_writeReg (r := .cmd) (by decide) c))
  constructor <;> intro herr
  · rw [hstep, (s.withAgenda es).writeCmd_accepted herr]; rfl
  · rw [hstep, (s.withAgenda es).writeCmd_dropped herr]; rfl

/-! ## Which accesses are legal (20_memory.md R76) -/

theorem blockOffset_eq_some_iff (cfg : Config) (addr off : Nat) :
    blockOffset cfg addr = some off ↔ addr = cfg.base + off ∧ off < 0x4000 := by
  simp only [blockOffset, Option.ite_none_right_eq_some, Option.some.injEq]
  omega

/-- Every row of the map lies in the block (R70, R71). -/
theorem row_in_block {cfg : Config} (hwf : cfg.wf = true) {row : MapRow} (h : row ∈ addressMap cfg) :
    row.base + row.size ≤ 0x4000 := by
  obtain ⟨-, -, -, -, -, -, hsize, -, -⟩ := (Config.wf_iff cfg).1 hwf
  have registers : ∀ r ∈ registerRows, r.base + r.size ≤ 0x4000 := by decide
  rcases List.mem_append.1 h with h | h
  · exact registers row h
  · simp only [List.mem_cons, List.not_mem_nil, or_false, ivBase, keyBase, hbufBase, dbufBase] at h
    rcases h with rfl | rfl | rfl | rfl | rfl | rfl <;> dsimp only <;> omega

/-- A legal access above the registers and outside `OIDV` lies in one byte window (R71). -/
theorem window_of_legalOffset {cfg : Config} {off : Nat} {n : Width} (hwf : cfg.wf = true)
    (h : legalOffset cfg off n) (hlo : 0x40 ≤ off) (ho : ¬(0x80 ≤ off ∧ off < 0xC0)) :
    ∃ row ∈ windowRows cfg, row.target.narrow = true ∧ row.base ≤ off ∧ off + n.bytes ≤ row.base + row.size := by
  obtain ⟨-, -, -, -, h4, -, -, -, -⟩ := (Config.wf_iff cfg).1 hwf
  obtain ⟨ha, h⟩ := h
  have fits : ∀ e, e % 4 = 0 → off < e → off + n.bytes ≤ e := fun e he hlt => by
    cases n <;> simp only [Width.bytes] at ha ⊢ <;> omega
  by_cases h1 : off < 0x50
  · exact ⟨⟨0x40, 16, .outhead⟩, by simp [windowRows], rfl, hlo, fits 0x50 rfl h1⟩
  by_cases h2 : off < 0x60
  · exact ⟨⟨ivBase, 16, .iv⟩, by simp [windowRows], rfl, not_lt.1 h1, fits 0x60 rfl h2⟩
  by_cases h3 : off < 0x80
  · exact ⟨⟨keyBase, 32, .key⟩, by simp [windowRows], rfl, not_lt.1 h2, fits 0x80 rfl h3⟩
  by_cases h5 : off < 0x100
  · exact ⟨⟨hbufBase, 64, .hbuf⟩, by simp [windowRows], rfl, by simp only [hbufBase]; omega, fits 0x100 rfl h5⟩
  · refine ⟨⟨dbufBase, cfg.dbufSize, .dbuf⟩, by simp [windowRows], rfl, ?_, fits _ ?_ ?_⟩ <;>
      simp only [dbufBase] <;> omega

/-- An access falls in a row of the map exactly when it is legal. -/
theorem legalRow_isSome_iff {cfg : Config} (hwf : cfg.wf = true) (off : Nat) (n : Width) :
    (∃ row, legalRow cfg off n = some row) ↔ legalOffset cfg off n := by
  constructor
  · rintro ⟨row, h⟩
    obtain ⟨hm, ha, h1, h2, hn⟩ := (legalRow_eq_some_iff cfg off n row).1 h
    have hpos := n.one_le_bytes
    have registers : ∀ r ∈ registerRows, r.base + r.size ≤ 0x3C ∧ r.target.narrow = false := by decide
    refine ⟨ha, ?_⟩
    rcases List.mem_append.1 hm with hm | hm
    · obtain ⟨hend, hnarrow⟩ := registers row hm
      exact .inl ⟨hn.resolve_right (by simp [hnarrow]), by omega⟩
    · simp only [List.mem_cons, List.not_mem_nil, or_false, ivBase, keyBase, hbufBase, dbufBase] at hm
      rcases hm with rfl | rfl | rfl | rfl | rfl | rfl <;> dsimp only at h1 h2
      · exact .inr (.inl (by omega))
      · exact .inr (.inl (by omega))
      · exact .inr (.inl (by omega))
      · exact .inr (.inr (.inl ⟨hn.resolve_right Bool.false_ne_true, by omega⟩))
      · exact .inr (.inr (.inr (.inl (by omega))))
      · exact .inr (.inr (.inr (.inr (by omega))))
  · intro h
    have offsets : ∀ k < 15, ∃ row ∈ registerRows, row.base = 4 * k := by decide
    by_cases hreg : off < 0x40
    · obtain ⟨ha, ⟨rfl, hlt⟩ | h | h | h | h⟩ := h
      · obtain ⟨row, hrow, hbase⟩ := offsets (off / 4) (by omega)
        obtain rfl : row.base = off := by simp only [Width.bytes] at ha; omega
        exact ⟨row, legalRow_register cfg hrow⟩
      all_goals omega
    by_cases hoidv : 0x80 ≤ off ∧ off < 0xC0
    · obtain ⟨ha, h | h | ⟨rfl, -, -⟩ | h | h⟩ := h
      · omega
      · omega
      · simp only [Width.bytes] at ha
        obtain ⟨i, hi, rfl⟩ : ∃ i < 16, off = 0x80 + 4 * i := ⟨(off - 0x80) / 4, by omega, by omega⟩
        exact ⟨_, legalRow_oidv cfg hi⟩
      · omega
      · omega
    · obtain ⟨row, hm, hn, h1, h2⟩ := window_of_legalOffset hwf h (not_lt.1 hreg) hoidv
      exact ⟨row, legalRow_window cfg hm hn h.1 h1 h2⟩

theorem HostEffect.agenda_eq {s t : State} (h : HostEffect s t) : t.agenda = s.agenda := by
  cases h with
  | command v => unfold State.writeCmd; split <;> rfl
  | control v =>
    rcases s.ctrlAction_cases v with hc | hc | hc | hc | hc <;> rw [hc] <;> rfl
  | registers | window => rfl

/-- No access touches the agenda (log entry 3). -/
theorem State.hostAccess_agenda (s : State) (a : Access) : (s.hostAccess a).agenda = s.agenda := by
  obtain ⟨t, r, ht, he⟩ := s.hostAccess_effect a
  rw [he, State.respond_agenda, ht.agenda_eq]

/-- A read in a row of the map answers data (R74). -/
theorem State.busRead_data {s : State} {off : Nat} {n : Width} {row : MapRow}
    (hl : legalRow s.cfg off n = some row) : ∃ v, s.busRead off n = .data v := by
  simp only [State.busRead, hl]
  cases row.target <;> exact ⟨_, rfl⟩

/-- An access in a row of the map gets its data or its acknowledgement (R74, R75). -/
theorem State.resp_of_legalRow {s : State} {a : Access} {off : Nat} {n : Width} {v : Word} {row : MapRow}
    (ha : a = .read (s.cfg.base + off) n ∨ a = .write (s.cfg.base + off) n v) (ho : off < 0x4000)
    (hl : legalRow s.cfg off n = some row) : ∃ r, (s.hostAccess a).resp = some r ∧ r ≠ .accessFault := by
  rcases ha with rfl | rfl
  · obtain ⟨w, hw⟩ := State.busRead_data hl
    exact ⟨.data w, by rw [State.hostAccess_read ho, hw, State.respond_resp], BusResponse.noConfusion⟩
  · exact ⟨.written, by rw [State.hostAccess_write ho hl, State.respond_resp], BusResponse.noConfusion⟩

/-- Every other access changes nothing and gets an access fault (R77). -/
theorem State.hostAccess_fault (s : State) {a : Access} {addr : Nat} {n : Width} {v : Word}
    (ha : a = .read addr n ∨ a = .write addr n v)
    (h : ∀ off, blockOffset s.cfg addr = some off → legalRow s.cfg off n = none) :
    s.hostAccess a = s.respond .accessFault := by
  cases ho : blockOffset s.cfg addr with
  | none => rcases ha with rfl | rfl <;> simp only [State.hostAccess, ho]
  | some off =>
    rcases ha with rfl | rfl <;> simp only [State.hostAccess, ho, State.busRead, State.busWrite, h off ho]

/-- Settles O54: the legal accesses are those that fall in a row of the map. -/
theorem illegalAccessChangesNothing : Obligations.IllegalAccessChangesNothing := by
  intro s a addr n v es hwf he ha h
  have hstep := step_host_idle he h
  constructor
  · rintro ⟨off, rfl, hlegal⟩
    obtain ⟨row, hl⟩ := (legalRow_isSome_iff hwf off n).2 hlegal
    obtain ⟨hm, -, -, hend, -⟩ := (legalRow_eq_some_iff s.cfg off n row).1 hl
    have hblock := row_in_block hwf hm
    have hpos := n.one_le_bytes
    obtain ⟨r, hr, hne⟩ := State.resp_of_legalRow (s := s.withAgenda es) ha (by omega) hl
    exact ⟨_, r, hstep, rfl, State.hostAccess_agenda _ a, hr, hne⟩
  · intro hillegal
    refine hstep.trans (congrArg _ ?_)
    refine (s.withAgenda es).hostAccess_fault ha fun off ho => Option.eq_none_iff_forall_ne_some.2 fun row hl => ?_
    exact hillegal ⟨off, ((blockOffset_eq_some_iff s.cfg addr off).1 ho).1, (legalRow_isSome_iff hwf off n).1 ⟨row, hl⟩⟩

/-! ## Register accesses as their rights say (20_memory.md R79, R80) -/

/-- A read at any address changes nothing but the response (R80). -/
theorem State.hostAccess_read_keeps (s : State) (addr : Nat) (n : Width) :
    ∃ r, s.hostAccess (.read addr n) = s.respond r := by
  simp only [State.hostAccess]
  cases blockOffset s.cfg addr <;> exact ⟨_, rfl⟩

/-- A 4-byte read at a register's offset answers the register and changes nothing else. -/
theorem State.hostAccess_readReg (s : State) {off : Nat} {r : Reg32} (hm : ⟨off, 4, .reg r⟩ ∈ registerRows) :
    s.hostAccess (.read (s.cfg.base + off) .word) = s.respond (.data (s.readReg r)) := by
  obtain ⟨resp, h⟩ := s.hostAccess_read_keeps (s.cfg.base + off) .word
  have hr := s.resp_read_register hm
  rw [h, State.respond_resp, Option.some.injEq] at hr
  rw [h, hr]

/-- The read-only 32-bit registers with their offsets (R71). -/
def readOnlyRegisters : List (Nat × Reg32) :=
  [(0x00, .id), (0x08, .status), (0x0C, .errcode), (0x10, .errcmd), (0x20, .res0), (0x24, .res1), (0x28, .dlen),
    (0x30, .outstat)]

theorem readOnlyRegisters_rows : ∀ p ∈ readOnlyRegisters, ⟨p.1, 4, .reg p.2⟩ ∈ registerRows := by decide

theorem State.writeReg_readOnly (s : State) {p : Nat × Reg32} (hp : p ∈ readOnlyRegisters) (v : Word) :
    s.writeReg p.2 v = s := by
  simp only [readOnlyRegisters, List.mem_cons, List.not_mem_nil, or_false] at hp
  rcases hp with rfl | rfl | rfl | rfl | rfl | rfl | rfl | rfl <;> rfl

/-- The read/write 32-bit registers with their offsets and the bits they implement (R71; 10_state.md R23, R32, R33,
R36, R38). -/
def readWriteRegisters : List (Nat × Reg32 × Word) :=
  [(0x18, .irqen, 0x7), (0x1C, .arg0, 0xFFFFFFFF), (0x2C, .hlen, 0x7F), (0x34, .oidn, 0x1F), (0x38, .nap, 0x7)]

theorem readWriteRegisters_rows : ∀ p ∈ readWriteRegisters, ⟨p.1, 4, .reg p.2.1⟩ ∈ registerRows := by decide

/-- Storing the low k bits of a word and reading them with zeros above. -/
theorem setWidth_setWidth_eq_and (v : Word) {k : Nat} (hk : k ≤ 32) :
    (v.setWidth k).setWidth 32 = v &&& BitVec.ofNat 32 (2 ^ k - 1) := by
  have hmask : 2 ^ k - 1 < 2 ^ 32 := by
    have := Nat.pow_le_pow_right (n := 2) (by decide) hk
    have := Nat.two_pow_pos k
    omega
  apply BitVec.eq_of_toNat_eq
  rw [BitVec.toNat_setWidth_of_le hk, BitVec.toNat_setWidth, BitVec.toNat_and, BitVec.toNat_ofNat,
    Nat.mod_eq_of_lt hmask, Nat.and_two_pow_sub_one_eq_mod]

/-- A read/write register reads back the implemented bits of what was written. -/
theorem State.readReg_writeReg (s : State) {p : Nat × Reg32 × Word} (hp : p ∈ readWriteRegisters) (v : Word) :
    (s.writeReg p.2.1 v).cfg = s.cfg ∧ (s.writeReg p.2.1 v).readReg p.2.1 = v &&& p.2.2 := by
  simp only [readWriteRegisters, List.mem_cons, List.not_mem_nil, or_false] at hp
  rcases hp with rfl | rfl | rfl | rfl | rfl
  · exact ⟨rfl, setWidth_setWidth_eq_and v (k := 3) (by decide)⟩
  · exact ⟨rfl, (BitVec.and_allOnes (x := v)).symm⟩
  · exact ⟨rfl, setWidth_setWidth_eq_and v (k := 7) (by decide)⟩
  · exact ⟨rfl, setWidth_setWidth_eq_and v (k := 5) (by decide)⟩
  · exact ⟨rfl, setWidth_setWidth_eq_and v (k := 3) (by decide)⟩

/-- The same on the bus: a 4-byte write and a 4-byte read at the register's offset. -/
theorem State.resp_read_after_write (s : State) {p : Nat × Reg32 × Word} (hp : p ∈ readWriteRegisters) (v : Word) :
    ((s.hostAccess (.write (s.cfg.base + p.1) .word v)).hostAccess (.read (s.cfg.base + p.1) .word)).resp =
      some (.data (v &&& p.2.2)) := by
  have hm := readWriteRegisters_rows p hp
  obtain ⟨hcfg, hread⟩ := s.readReg_writeReg hp v
  have h := ((s.writeReg p.2.1 v).respond .written).resp_read_register hm
  rw [State.respond_cfg, hcfg] at h
  rw [s.hostAccess_writeReg hm, h, ← hread]
  rfl

/-- A 4-byte write of `OIDV[i]` sets that entry (10_state.md R42). -/
theorem State.hostAccess_write_oidv (s : State) {i : Nat} (hi : i < 16) (v : Word) :
    s.hostAccess (.write (s.cfg.base + (0x80 + 4 * i)) .word v) =
      { s with oidv := s.oidv.setIfInBounds i v, resp := some .written } := by
  have hindex : (0x80 + 4 * i - 0x80) / 4 = i := by omega
  rw [State.hostAccess_write (by omega) (legalRow_oidv s.cfg hi)]
  simp only [State.writeRow, hindex]
  rfl

/-- A 4-byte read of `OIDV[i]` answers that entry. -/
theorem State.resp_read_oidv (s : State) {i : Nat} (hi : i < 16) :
    (s.hostAccess (.read (s.cfg.base + (0x80 + 4 * i)) .word)).resp = some (.data s.oidv[i]) := by
  rw [State.hostAccess_read (by omega), State.busRead_oidv s hi, State.respond_resp]

/-! ## The byte windows (20_memory.md R73, R75) -/

/-- A read of a byte window answers its bytes, lowest offset in the low bits (R73, R74). -/
theorem State.busRead_window {s : State} {off : Nat} {n : Width} {row : MapRow}
    (hl : legalRow s.cfg off n = some row) (hn : row.target.narrow = true) :
    s.busRead off n = .data (fromLanes ((List.range n.bytes).map fun i => s.windowByte row.target (off + i))) := by
  obtain ⟨b, k, t⟩ := row
  cases t with
  | reg r => exact absurd hn Bool.false_ne_true
  | oidv => exact absurd hn Bool.false_ne_true
  | outhead | iv | key | hbuf | dbuf => simp only [State.busRead, hl]

theorem State.writeRow_window (s : State) {row : MapRow} (hn : row.target.narrow = true) (off n : Nat) (v : Word) :
    s.writeRow row off n v = s.writeWindow row.target off n v := by
  obtain ⟨b, k, t⟩ := row
  cases t with
  | reg r => exact absurd hn Bool.false_ne_true
  | oidv => exact absurd hn Bool.false_ne_true
  | outhead | iv | key | hbuf | dbuf => rfl

theorem fromLanes_replicate_zero (n : Nat) : fromLanes (List.replicate n 0) = 0 := by
  induction n with
  | zero => rfl
  | succ n ih => rw [List.replicate_succ, fromLanes, ih]; decide

/-- `KEY` reads as zero at every width (R79). -/
theorem State.hostAccess_read_key (s : State) {off : Nat} {n : Width} (h1 : 0x60 ≤ off) (h2 : off + n.bytes ≤ 0x80)
    (ha : off % n.bytes = 0) : s.hostAccess (.read (s.cfg.base + off) n) = s.respond (.data 0) := by
  have hl := legalRow_window s.cfg (row := ⟨keyBase, 32, .key⟩) (by simp [windowRows]) rfl ha h1 h2
  have hzero : (fun i => s.windowByte .key (off + i)) = fun _ => 0 := rfl
  rw [State.hostAccess_read (by omega), State.busRead_window hl rfl, hzero, List.map_const', fromLanes_replicate_zero]

/-- A write of the read-only `OUTHEAD` is ignored at every width (R79). -/
theorem State.hostAccess_write_outhead (s : State) {off : Nat} {n : Width} (h1 : 0x40 ≤ off)
    (h2 : off + n.bytes ≤ 0x50) (ha : off % n.bytes = 0) (v : Word) :
    s.hostAccess (.write (s.cfg.base + off) n v) = s.respond .written :=
  State.hostAccess_write (by omega)
    (legalRow_window s.cfg (row := ⟨0x40, 16, .outhead⟩) (by simp [windowRows]) rfl ha h1 h2) v

/-- Settles O55, clause by clause from what one access of each kind of row does. -/
theorem registerAccessRights : Obligations.RegisterAccessRights := by
  intro s _
  refine ⟨s.hostAccess_read_keeps, fun off v hm => ?_, fun off n v h1 h2 ha => s.hostAccess_write_outhead h1 h2 ha v,
    fun off hm => ?_, fun off n h1 h2 ha => s.hostAccess_read_key h1 h2 ha,
    fun v => ⟨?_, ?_, ?_, ?_, ?_⟩, fun off mask v hm => ?_, fun i hi v => ?_⟩
  · obtain ⟨⟨off, r⟩, hr, rfl⟩ := List.mem_map.1 (show off ∈ readOnlyRegisters.map Prod.fst from hm)
    rw [s.hostAccess_writeReg (readOnlyRegisters_rows _ hr), s.writeReg_readOnly hr]
    rfl
  · simp only [List.mem_cons, List.not_mem_nil, or_false] at hm
    rcases hm with rfl | rfl
    · exact s.hostAccess_readReg (r := .cmd) (by decide)
    · exact s.hostAccess_readReg (r := .ctrl) (by decide)
  · exact s.hostAccess_writeReg (r := .irqen) (by decide) v
  · exact s.hostAccess_writeReg (r := .arg0) (by decide) v
  · exact s.hostAccess_writeReg (r := .hlen) (by decide) v
  · exact s.hostAccess_writeReg (r := .oidn) (by decide) v
  · exact s.hostAccess_writeReg (r := .nap) (by decide) v
  · obtain ⟨p, hp, he⟩ :=
      List.mem_map.1 (show (off, mask) ∈ readWriteRegisters.map fun p => (p.1, p.2.2) from hm)
    cases he
    exact s.resp_read_after_write hp v
  · have hw := s.hostAccess_write_oidv hi v
    refine ⟨s.oidv.setIfInBounds i v, hw, Vector.getElem_setIfInBounds_self hi,
      fun k hk hne => Vector.getElem_setIfInBounds_ne hk hne.symm, ?_⟩
    rw [hw]
    refine (State.resp_read_oidv { s with oidv := s.oidv.setIfInBounds i v, resp := some .written } hi).trans ?_
    rw [Vector.getElem_setIfInBounds_self]

/-! ## Wide accesses and narrow ones (20_memory.md R78) -/

theorem Memory.writeBytes_append (x y : Bytes) (m : Memory) (a : Nat) :
    Memory.writeBytes m a (x ++ y) = Memory.writeBytes (Memory.writeBytes m a x) (a + x.length) y := by
  induction x generalizing m a with
  | nil => rfl
  | cons b x ih =>
    rw [List.cons_append, Memory.writeBytes, ih, Memory.writeBytes, List.length_cons, Nat.add_right_comm, Nat.add_assoc]

/-- The last lane of the data (R73). -/
theorem lanes_succ (n : Nat) (v : Word) : lanes (n + 1) v = lanes n v ++ lanes 1 (v >>> (8 * n)) := by
  rw [lanes, List.range_succ, List.map_append]
  rfl

/-- A write of one byte more is the write and a write of that byte. -/
theorem State.writeWindow_succ (s : State) (t : Target) (off n : Nat) (v : Word) :
    s.writeWindow t off (n + 1) v = (s.writeWindow t off n v).writeWindow t (off + n) 1 (v >>> (8 * n)) := by
  cases t with
  | iv | key | hbuf | dbuf =>
    simp only [State.writeWindow, lanes_succ n, Memory.writeBytes_append, length_lanes]
  | reg | oidv | outhead => rfl

theorem State.writeWindow_cfg (s : State) (t : Target) (off n : Nat) (v : Word) :
    (s.writeWindow t off n v).cfg = s.cfg := by
  cases t <;> rfl

/-- A write of a byte window neither reads the response nor keeps it. -/
theorem State.writeWindow_respond (s : State) (r r' : BusResponse) (t : Target) (off n : Nat) (v : Word) :
    ((s.respond r).writeWindow t off n v).respond r' = (s.writeWindow t off n v).respond r' := by
  cases t <;> rfl

/-- The value of the data is its lanes in base 256, lowest offset first (R73). -/
theorem toNat_fromLanes (x : Bytes) (h : x.length ≤ 4) :
    (fromLanes x).toNat = Nat.ofDigits 256 (x.map BitVec.toNat) := by
  induction x with
  | nil => rfl
  | cons b x ih =>
    rw [List.length_cons] at h
    have hrest := ih (by omega)
    have hlt : Nat.ofDigits 256 (x.map BitVec.toNat) < 256 ^ 3 := by
      refine (Nat.ofDigits_lt_base_pow_length (by decide) fun d hd => ?_).trans_le
        (Nat.pow_le_pow_right (by decide) (by rw [List.length_map]; omega))
      obtain ⟨c, -, rfl⟩ := List.mem_map.1 hd
      exact c.isLt
    rw [List.map_cons, Nat.ofDigits_cons, ← hrest]
    rw [← hrest] at hlt
    rw [fromLanes, BitVec.toNat_or, BitVec.toNat_shiftLeft, BitVec.toNat_setWidth_of_le (by decide),
      Nat.mod_eq_of_lt (by rw [Nat.shiftLeft_eq]; omega), ← Nat.shiftLeft_add_eq_or_of_lt b.isLt, Nat.shiftLeft_eq]
    omega

section
variable {s : State} {row : MapRow} (ho : row.base + row.size ≤ 0x4000) (hm : row ∈ windowRows s.cfg)
  (hn : row.target.narrow = true) {off : Nat}
include ho hm hn

/-- A write in a byte window, at any width. -/
theorem State.hostAccess_write_window {n : Width} (ha : off % n.bytes = 0) (h1 : row.base ≤ off)
    (h2 : off + n.bytes ≤ row.base + row.size) (v : Word) :
    s.hostAccess (.write (s.cfg.base + off) n v) = (s.writeWindow row.target off n.bytes v).respond .written := by
  have hpos := n.one_le_bytes
  rw [State.hostAccess_write (by omega) (legalRow_window s.cfg hm hn ha h1 h2), s.writeRow_window hn]

/-- A read in a byte window, at any width. -/
theorem State.resp_read_window {n : Width} (ha : off % n.bytes = 0) (h1 : row.base ≤ off)
    (h2 : off + n.bytes ≤ row.base + row.size) :
    (s.hostAccess (.read (s.cfg.base + off) n)).resp =
      some (.data (fromLanes ((List.range n.bytes).map fun i => s.windowByte row.target (off + i)))) := by
  have hpos := n.one_le_bytes
  rw [State.hostAccess_read (by omega), State.busRead_window (legalRow_window s.cfg hm hn ha h1 h2) hn,
    State.respond_resp]

/-- After a write of n bytes of the data, a 1-byte write of the next byte makes it a write of n + 1 bytes. -/
theorem State.hostAccess_write_next {n : Nat} (h1 : row.base ≤ off) (h2 : off + n < row.base + row.size) (v : Word) :
    ((s.writeWindow row.target off n v).respond .written).hostAccess
        (.write (s.cfg.base + (off + n)) .byte (v >>> (8 * n))) =
      (s.writeWindow row.target off (n + 1) v).respond .written := by
  have hcfg : ((s.writeWindow row.target off n v).respond .written).cfg = s.cfg := s.writeWindow_cfg ..
  have h := State.hostAccess_write_window (n := .byte) ho (hcfg ▸ hm) hn (Nat.mod_one _) (Nat.le_add_right_of_le h1) h2
    (v >>> (8 * n))
  rw [hcfg] at h
  rw [h, State.writeWindow_respond, State.writeWindow_succ]
  rfl

/-- A 2-byte write in a byte window is the two 1-byte writes. -/
theorem State.hostAccess_write_half (ha : off % 2 = 0) (h1 : row.base ≤ off) (h2 : off + 2 ≤ row.base + row.size)
    (v : Word) :
    s.hostAccess (.write (s.cfg.base + off) .half v) =
      (s.hostAccess (.write (s.cfg.base + off) .byte v)).hostAccess
        (.write (s.cfg.base + (off + 1)) .byte (v >>> 8)) := by
  rw [State.hostAccess_write_window (n := .half) ho hm hn ha h1 h2,
    State.hostAccess_write_window (n := .byte) ho hm hn (Nat.mod_one off) h1 (by simp only [Width.bytes]; omega)]
  exact (State.hostAccess_write_next ho hm hn h1 (n := 1) (by omega) v).symm

/-- A 4-byte write in a byte window is the four 1-byte writes. -/
theorem State.hostAccess_write_word (ha : off % 4 = 0) (h1 : row.base ≤ off) (h2 : off + 4 ≤ row.base + row.size)
    (v : Word) :
    s.hostAccess (.write (s.cfg.base + off) .word v) =
      (((s.hostAccess (.write (s.cfg.base + off) .byte v)).hostAccess
        (.write (s.cfg.base + (off + 1)) .byte (v >>> 8))).hostAccess
        (.write (s.cfg.base + (off + 2)) .byte (v >>> 16))).hostAccess
        (.write (s.cfg.base + (off + 3)) .byte (v >>> 24)) := by
  have next (n : Nat) (hk : n < 4) := State.hostAccess_write_next ho hm hn h1 (n := n) (by omega) v
  rw [State.hostAccess_write_window (n := .word) ho hm hn ha h1 h2,
    ← State.hostAccess_write_half ho hm hn (by omega) h1 (by omega),
    State.hostAccess_write_window (n := .half) ho hm hn (by simp only [Width.bytes]; omega) h1
      (by simp only [Width.bytes]; omega)]
  exact ((congrArg (State.hostAccess · _) (next 2 (by decide))).trans (next 3 (by decide))).symm

end

/-- The byte windows whose bytes are in the memory hold the offsets of `IV`, `KEY`, `HBUF` and `DBUF` (R71). -/
theorem memoryWindow_of_offset {cfg : Config} {off : Nat}
    (h : (0x50 ≤ off ∧ off < 0x80) ∨ (0xC0 ≤ off ∧ off < 0x100) ∨ (0x1000 ≤ off ∧ off < 0x1000 + cfg.dbufSize)) :
    ∃ row ∈ windowRows cfg, row.base ≤ off ∧ off + 1 ≤ row.base + row.size ∧
      (row.target = .iv ∨ row.target = .key ∨ row.target = .hbuf ∨ row.target = .dbuf) := by
  rcases h with ⟨h1, h2⟩ | ⟨h1, h2⟩ | ⟨h1, h2⟩
  · by_cases hkey : 0x60 ≤ off
    · exact ⟨⟨keyBase, 32, .key⟩, by simp [windowRows], hkey, h2, by simp⟩
    · exact ⟨⟨ivBase, 16, .iv⟩, by simp [windowRows], h1, not_le.1 hkey, by simp⟩
  · exact ⟨⟨hbufBase, 64, .hbuf⟩, by simp [windowRows], h1, h2, by simp⟩
  · exact ⟨⟨dbufBase, cfg.dbufSize, .dbuf⟩, by simp [windowRows], h1, h2, by simp⟩

/-- A 1-byte write at an offset of the memory stores the low byte of the data there (R75). -/
theorem State.hostAccess_write_memory {s : State} (hwf : s.cfg.wf = true) {off : Nat}
    (h : (0x50 ≤ off ∧ off < 0x80) ∨ (0xC0 ≤ off ∧ off < 0x100) ∨ (0x1000 ≤ off ∧ off < 0x1000 + s.cfg.dbufSize))
    (v : Word) : s.hostAccess (.write (s.cfg.base + off) .byte v) =
      { s with mem := Memory.write s.mem off (v.setWidth 8), resp := some .written } := by
  obtain ⟨row, hm, h1, h2, ht⟩ := memoryWindow_of_offset h
  have hn : row.target.narrow = true := by rcases ht with h | h | h | h <;> rw [h] <;> rfl
  have ho := row_in_block hwf (List.mem_append_right _ hm)
  rw [State.hostAccess_write (by omega) (legalRow_window (n := .byte) s.cfg hm hn (Nat.mod_one off) h1 h2)]
  exact congrArg (State.respond · .written) (State.writeRow_byte ht v)

theorem toNat_widened_byte (b : Byte) : (b.setWidth 32).toNat = b.toNat := BitVec.toNat_setWidth_of_le (by decide)

theorem toNat_widened_byte_lt (b : Byte) : (b.setWidth 32).toNat < 256 := toNat_widened_byte b ▸ b.isLt

theorem toNat_fromLanes_two (b0 b1 : Byte) :
    (fromLanes [b0, b1]).toNat = (b0.setWidth 32).toNat + 256 * (b1.setWidth 32).toNat := by
  simp only [toNat_fromLanes [b0, b1] (by simp), toNat_widened_byte, List.map_cons, List.map_nil, Nat.ofDigits_cons,
    Nat.ofDigits_nil]
  omega

theorem toNat_fromLanes_four (b0 b1 b2 b3 : Byte) :
    (fromLanes [b0, b1, b2, b3]).toNat = (b0.setWidth 32).toNat + 256 * (b1.setWidth 32).toNat +
      65536 * (b2.setWidth 32).toNat + 16777216 * (b3.setWidth 32).toNat := by
  simp only [toNat_fromLanes [b0, b1, b2, b3] (by simp), toNat_widened_byte, List.map_cons, List.map_nil,
    Nat.ofDigits_cons, Nat.ofDigits_nil]
  omega

/-- Settles O56: a wide access and the narrow ones at its bytes fall in one window, whose bytes a wide write stores one
by one and a wide read puts together in base 256. -/
theorem wideAccessesEqualNarrowOnes : Obligations.WideAccessesEqualNarrowOnes := by
  intro s off hwf _ hlo hoidv
  have inWindow {n : Width} (hl : legalOffset s.cfg off n) := window_of_legalOffset hwf hl hlo hoidv
  refine ⟨fun hoff hmem v => ⟨_, s.hostAccess_write_memory hwf hoff v, Memory.wf_write off _ hmem, ?_, fun a ha => ?_⟩,
    fun hl => ?_, fun hl => ?_⟩
  · rw [Memory.read_write hmem, if_pos rfl, BitVec.toNat_setWidth]
  · exact Memory.read_write_other s.mem off a _ ha
  all_goals
    obtain ⟨row, hm, hn, h1, h2⟩ := inWindow hl
    have ho := row_in_block hwf (List.mem_append_right _ hm)
    simp only [Width.bytes] at h2
    have byteRead (i : Nat) (hi : off + i < row.base + row.size) :=
      s.resp_read_byte (off := off + i) (by omega) hm hn (by omega) hi
  · exact ⟨State.hostAccess_write_word ho hm hn hl.1 h1 h2, _, _, _, _, _,
      State.resp_read_window ho hm hn hl.1 h1 h2, byteRead 0 (by omega), byteRead 1 (by omega), byteRead 2 (by omega),
      byteRead 3 (by omega), toNat_widened_byte_lt _, toNat_widened_byte_lt _, toNat_widened_byte_lt _,
      toNat_widened_byte_lt _, toNat_fromLanes_four ..⟩
  · exact ⟨State.hostAccess_write_half ho hm hn hl.1 h1 h2, _, _, _,
      State.resp_read_window ho hm hn hl.1 h1 h2, byteRead 0 (by omega), byteRead 1 (by omega),
      toNat_fromLanes_two ..⟩

end Sys2Proof.Machine
end

section
/-! SUPPORT. Proofs about the encoding (30_encoding.md): the decoder undoes the encoder on every instruction, and every
word that passes the first four tests of R105 is an encoding; the obligations follow without a look at the decoder. -/

namespace Sys2Proof

open Sys2Proof.Machine Sys2Proof.Laws Sys2Proof.Laws.OpcodeFits

/-! ## The words that are encodings (30_encoding.md R104, R105) -/

/-- The operation codes of the map are distinct (R104). -/
theorem find?_opcodeRows_eq_some_iff (opc : Byte) (row : OpcodeRow) :
    opcodeRows.find? (fun row => row.opc = opc) = some row ↔ row ∈ opcodeRows ∧ row.opc = opc := by
  have finds : ∀ row ∈ opcodeRows, opcodeRows.find? (fun r => r.opc = row.opc) = some row := by decide
  constructor
  · intro h
    have hopc := List.find?_some h
    exact ⟨List.mem_of_find?_eq_some h, of_decide_eq_true hopc⟩
  · rintro ⟨hrow, rfl⟩
    exact finds row hrow

/-- What `Fits` asks, with the row found by membership. -/
theorem fits_iff (c : Word) :
    Fits c ↔ ∃ row ∈ opcodeRows, row.opc = opcOf c ∧ (row.usesA = false → aOf c = 0) ∧
      (row.usesL = false → lOf c = 0) ∧ aOf c &&& ~~~row.aBits = 0 := by
  simp only [Fits, find?_opcodeRows_eq_some_iff, and_assoc]

theorem fits_encode (i : Instr) : Fits (encode i) := by
  cases i with
  | nop => exact OpcodeFits.nop
  | aesKeyexp ks => exact OpcodeFits.aesKeyexp ks
  | aesEncb l => exact OpcodeFits.aesEncb l
  | aesDecb l => exact OpcodeFits.aesDecb l
  | sesInit dir chain pad => exact OpcodeFits.sesInit dir chain pad
  | sesUpdate l => exact OpcodeFits.sesUpdate l
  | sesFinal l => exact OpcodeFits.sesFinal l
  | gfMul l => exact OpcodeFits.gfMul l
  | stSubbytes l => exact OpcodeFits.stSubbytes l
  | stInvsubbytes l => exact OpcodeFits.stInvsubbytes l
  | stShiftrows l => exact OpcodeFits.stShiftrows l
  | stInvshiftrows l => exact OpcodeFits.stInvshiftrows l
  | stMixcolumns l => exact OpcodeFits.stMixcolumns l
  | stInvmixcolumns l => exact OpcodeFits.stInvmixcolumns l
  | stAddroundkey round l => exact OpcodeFits.stAddroundkey round l
  | bnLd reg l => exact OpcodeFits.bnLd reg l
  | bnSt reg l => exact OpcodeFits.bnSt reg l
  | rsaSp1 form => exact OpcodeFits.rsaSp1 form
  | rsaVp1 => exact OpcodeFits.rsaVp1
  | emsaEnc alg l => exact OpcodeFits.emsaEnc alg l
  | pkcsSign alg form => exact OpcodeFits.pkcsSign alg form
  | pkcsVerify alg l => exact OpcodeFits.pkcsVerify alg l
  | derLenenc => exact OpcodeFits.derLenenc
  | derLendec l => exact OpcodeFits.derLendec l
  | oidEnc => exact OpcodeFits.oidEnc
  | oidDec l => exact OpcodeFits.oidDec l
  | algidEnc alg => exact OpcodeFits.algidEnc alg
  | oidLdalg alg => exact OpcodeFits.oidLdalg alg

/-- Fields that pass the must-be-zero tests of a row are the fields of an instruction: an unused field is 0, and the
byte `A` is put together again from its sub-fields. -/
theorem exists_encode_eq_commandWord {row : OpcodeRow} (hrow : row ∈ opcodeRows) {a : Byte} {l : BitVec 16}
    (ha : row.usesA = false → a = 0) (hl : row.usesL = false → l = 0) (hb : a &&& ~~~row.aBits = 0) :
    ∃ i, encode i = commandWord row.opc a l := by
  have fields {opc a' : Byte} {l' : BitVec 16} (h : a' = a) (h' : l' = l) :
      commandWord opc a' l' = commandWord opc a l := congrArg₂ _ h h'
  simp only [opcodeRows, opcodeRowsAes, opcodeRowsRsaDer, List.cons_append, List.nil_append, List.mem_cons,
    List.not_mem_nil, or_false] at hrow
  rcases hrow with rfl | rfl | rfl | rfl | rfl | rfl | rfl | rfl | rfl | rfl | rfl | rfl | rfl | rfl | rfl | rfl |
    rfl | rfl | rfl | rfl | rfl | rfl | rfl | rfl | rfl | rfl | rfl | rfl
  · exact ⟨.nop, fields (ha rfl).symm (hl rfl).symm⟩
  · exact ⟨.aesKeyexp _, fields (assemble_ks a hb) (hl rfl).symm⟩
  · exact ⟨.aesEncb l, fields (ha rfl).symm rfl⟩
  · exact ⟨.aesDecb l, fields (ha rfl).symm rfl⟩
  · exact ⟨.sesInit _ _ _, fields (assemble_pad a hb) (hl rfl).symm⟩
  · exact ⟨.sesUpdate l, fields (ha rfl).symm rfl⟩
  · exact ⟨.sesFinal l, fields (ha rfl).symm rfl⟩
  · exact ⟨.gfMul l, fields (ha rfl).symm rfl⟩
  · exact ⟨.stSubbytes l, fields (ha rfl).symm rfl⟩
  · exact ⟨.stInvsubbytes l, fields (ha rfl).symm rfl⟩
  · exact ⟨.stShiftrows l, fields (ha rfl).symm rfl⟩
  · exact ⟨.stInvshiftrows l, fields (ha rfl).symm rfl⟩
  · exact ⟨.stMixcolumns l, fields (ha rfl).symm rfl⟩
  · exact ⟨.stInvmixcolumns l, fields (ha rfl).symm rfl⟩
  · exact ⟨.stAddroundkey _ l, fields (assemble_four a hb) rfl⟩
  · exact ⟨.bnLd _ l, fields (assemble_reg a hb) rfl⟩
  · exact ⟨.bnSt _ l, fields (assemble_reg a hb) rfl⟩
  · exact ⟨.rsaSp1 _, fields (assemble_form a hb) (hl rfl).symm⟩
  · exact ⟨.rsaVp1, fields (ha rfl).symm (hl rfl).symm⟩
  · exact ⟨.emsaEnc _ l, fields (assemble_four a hb) rfl⟩
  · exact ⟨.pkcsSign _ _, fields (assemble_signing a hb) (hl rfl).symm⟩
  · exact ⟨.pkcsVerify _ l, fields (assemble_four a hb) rfl⟩
  · exact ⟨.derLenenc, fields (ha rfl).symm (hl rfl).symm⟩
  · exact ⟨.derLendec l, fields (ha rfl).symm rfl⟩
  · exact ⟨.oidEnc, fields (ha rfl).symm (hl rfl).symm⟩
  · exact ⟨.oidDec l, fields (ha rfl).symm rfl⟩
  · exact ⟨.algidEnc _, fields (assemble_four a hb) (hl rfl).symm⟩
  · exact ⟨.oidLdalg _, fields (assemble_four a hb) (hl rfl).symm⟩

/-- The words that pass the first four tests of R105 are the encodings. -/
theorem fits_iff_exists_encode (c : Word) : Fits c ↔ ∃ i, encode i = c := by
  constructor
  · intro h
    obtain ⟨row, hrow, hopc, ha, hl, hb⟩ := (fits_iff c).1 h
    obtain ⟨i, hi⟩ := exists_encode_eq_commandWord hrow ha hl hb
    exact ⟨i, by rw [hi, hopc, commandWord_fields]⟩
  · rintro ⟨i, rfl⟩
    exact fits_encode i

/-! ## The decoder (30_encoding.md R105) -/

/-- A test in front of the rest of the decoder: a word decodes if it passes the test and the rest decodes. -/
theorem ok_of_test_iff {p : Prop} [Decidable p] {r : Reject} {rest : Except Reject Instr} {i : Instr} :
    (if p then .error r else rest) = .ok i ↔ ¬p ∧ rest = .ok i := by
  by_cases hp : p <;> simp [hp]

/-- Decoding is reading the sub-fields of a word that passes the first four tests. -/
theorem decode_eq_ok_iff (cfg : Config) (c : Word) (i : Instr) :
    decode cfg c = .ok i ↔ Fits c ∧ decodeFields cfg (opcOf c) (aOf c) (lOf c) = .ok i := by
  unfold decode Fits
  cases h : opcodeRows.find? (fun row => row.opc = opcOf c) with
  | none => simp
  | some row =>
    simp only [ok_of_test_iff, not_and, ne_eq, not_not, Bool.not_eq_true', Option.some.injEq, exists_eq_left',
      and_assoc]

/-- An encoding decodes to its instruction if that is well-formed, and else not at all. -/
theorem decode_encode_eq_ok_iff (cfg : Config) (i j : Instr) :
    decode cfg (encode i) = .ok j ↔ i = j ∧ i.wellFormed cfg = true := by
  rw [decode_eq_ok_iff, and_iff_right (fits_encode i)]
  simp only [encode, Instr.wellFormed]
  cases i with
  | sesInit dir chain pad =>
    obtain ⟨hpad, hchain, hdir⟩ := extract_pad pad chain dir
    simp only [opcOf_commandWord, aOf_commandWord, decodeFields, hpad, hchain, hdir]
    simp [ok_of_test_iff, and_comm]
  | bnLd reg l => by_cases h : bnRegExists cfg reg <;> simp [decodeFields, extract_reg, h]
  | bnSt reg l => by_cases h : bnRegStorable reg <;> simp [decodeFields, extract_reg, h]
  | rsaSp1 form =>
    simp only [opcOf_commandWord, aOf_commandWord, decodeFields, extract_form]
    simp
  | pkcsSign alg form =>
    simp only [opcOf_commandWord, aOf_commandWord, decodeFields, extract_signing]
    simp
  | aesKeyexp ks => simp [decodeFields, extract_ks]
  | stAddroundkey x l | emsaEnc x l | pkcsVerify x l | algidEnc x | oidLdalg x => simp [decodeFields, extract_four]
  | _ => simp [decodeFields]

/-- Settles O1: a word that decodes is an encoding, and the decoder undoes the encoder. -/
theorem decodeAndEncodeAgree : Obligations.DecodeAndEncodeAgree := by
  intro cfg c i
  constructor
  · intro h
    obtain ⟨j, rfl⟩ := (fits_iff_exists_encode c).1 ((decode_eq_ok_iff cfg c i).1 h).1
    obtain ⟨rfl, hwf⟩ := (decode_encode_eq_ok_iff cfg j i).1 h
    exact ⟨rfl, hwf⟩
  · rintro ⟨rfl, hwf⟩
    exact (decode_encode_eq_ok_iff cfg i i).2 ⟨rfl, hwf⟩

/-! ## The opcode table (30_encoding.md R105) -/

/-- The match column of a row of the opcode map. -/
def OpcodeRow.matchWord (row : OpcodeRow) : Word := commandWord row.opc 0 0

/-- The mask column of a row of the opcode map: the operation code and every bit that must be zero. -/
def OpcodeRow.maskWord (row : OpcodeRow) : Word :=
  commandWord 0xFF (if row.usesA then ~~~row.aBits else 0xFF) (if row.usesL then 0 else 0xFFFF)

theorem commandTable_eq : commandTable = opcodeRows.map fun row => (row.matchWord, row.maskWord) := by decide

theorem commandWord_inj {opc opc' a a' : Byte} {l l' : BitVec 16} :
    commandWord opc a l = commandWord opc' a' l' ↔ opc = opc' ∧ a = a' ∧ l = l' := by
  constructor
  · intro h
    exact ⟨by simpa using congrArg opcOf h, by simpa using congrArg aOf h, by simpa using congrArg lOf h⟩
  · rintro ⟨rfl, rfl, rfl⟩
    rfl

theorem commandWord_and (opc opc' a a' : Byte) (l l' : BitVec 16) :
    commandWord opc a l &&& commandWord opc' a' l' = commandWord (opc &&& opc') (a &&& a') (l &&& l') := by
  rw [commandWord, commandWord, BitVec.and_append, BitVec.and_append, commandWord]

/-- A word matches a row when it passes the first four tests of R105 for that row. -/
theorem and_maskWord_eq_matchWord_iff (row : OpcodeRow) (c : Word) :
    c &&& row.maskWord = row.matchWord ↔ row.opc = opcOf c ∧ (row.usesA = false → aOf c = 0) ∧
      (row.usesL = false → lOf c = 0) ∧ aOf c &&& ~~~row.aBits = 0 := by
  obtain ⟨opc, usesA, usesL, aBits⟩ := row
  rw [← commandWord_fields c, OpcodeRow.maskWord, OpcodeRow.matchWord, commandWord_and, commandWord_inj]
  simp only [opcOf_commandWord, aOf_commandWord, lOf_commandWord]
  have byte (x : Byte) : x &&& 0xFF = x := BitVec.and_allOnes
  have hA : aOf c &&& (if usesA then ~~~aBits else 0xFF) = 0 ↔
      (usesA = false → aOf c = 0) ∧ aOf c &&& ~~~aBits = 0 := by
    cases usesA
    · rw [if_neg Bool.false_ne_true, byte]
      exact ⟨fun h => ⟨fun _ => h, by simp [h]⟩, fun h => h.1 rfl⟩
    · simp
  have hL : lOf c &&& (if usesL then 0 else 0xFFFF) = 0 ↔ (usesL = false → lOf c = 0) := by
    cases usesL
    · rw [if_neg Bool.false_ne_true, show lOf c &&& 0xFFFF = lOf c from BitVec.and_allOnes]
      simp
    · simp
  rw [byte, hA, hL, eq_comm, and_assoc, and_comm (b := usesL = false → _)]

theorem commandTable_any_iff (c : Word) : (commandTable.any fun row => c &&& row.2 == row.1) = true ↔ Fits c := by
  rw [commandTable_eq, fits_iff, List.any_map, List.any_eq_true]
  refine exists_congr fun row => and_congr_right fun _ => ?_
  exact beq_iff_eq.trans (and_maskWord_eq_matchWord_iff row c)

theorem toNat_pad (c : Word) : c.toNat / 1024 % 4 = ((aOf c).extractLsb' 2 2).toNat := by
  rw [BitVec.extractLsb'_toNat, aOf_toNat, Nat.shiftRight_eq_div_pow]
  omega

theorem toNat_reg (c : Word) : c.toNat / 256 % 64 = ((aOf c).extractLsb' 0 6).toNat := by
  rw [BitVec.extractLsb'_toNat, aOf_toNat, Nat.shiftRight_zero]
  omega

/-- BN.LD's reserved register numbers are those that name no register (10_state.md R21). -/
theorem reserved_reg_eq_not_bnRegExists (cfg : Config) (reg : BitVec 6) :
    ((10 ≤ reg.toNat && reg.toNat ≤ 15) || reg.toNat > 15 + 3 * cfg.apMax : Bool) = !bnRegExists cfg reg := by
  rw [Bool.eq_iff_iff]
  simp only [bnRegExists, Bool.or_eq_true, Bool.and_eq_true, decide_eq_true_eq, Bool.not_eq_true', Bool.or_eq_false_iff,
    Bool.and_eq_false_iff, decide_eq_false_iff_not]
  omega

/-- The `illegal_if` column on the fields of the word. -/
theorem illegalIf_eq (cfg : Config) (c : Word) :
    illegalIf cfg c = ((opcOf c == 0x04 && (aOf c).extractLsb' 2 2 == 3) ||
      (opcOf c == 0x10 && !bnRegExists cfg ((aOf c).extractLsb' 0 6)) ||
      (opcOf c == 0x11 && !bnRegStorable ((aOf c).extractLsb' 0 6))) := by
  simp only [illegalIf, ← opcOf_toNat, toNat_pad, toNat_reg, reserved_reg_eq_not_bnRegExists, bnRegStorable]
  simp [beq_eq_decide, ← BitVec.toNat_inj]

theorem illegalIf_encode (cfg : Config) (i : Instr) : illegalIf cfg (encode i) = !i.wellFormed cfg := by
  rw [illegalIf_eq]
  cases i with
  | sesInit dir chain pad =>
    simp only [encode, Instr.wellFormed, opcOf_commandWord, aOf_commandWord, extract_pad]
    simp [beq_eq_decide]
  | bnLd reg l | bnSt reg l => simp [encode, Instr.wellFormed, extract_reg]
  | _ => simp [encode, Instr.wellFormed]

/-- Settles O2: the table's rows are matched by the encodings, and `illegal_if` holds of those of ill-formed terms. -/
theorem decodingAcceptsExactlyTheTable : Obligations.DecodingAcceptsExactlyTheTable := by
  intro cfg c
  rw [commandTable_any_iff, fits_iff_exists_encode, ← exists_and_right]
  refine exists_congr fun i => (decodeAndEncodeAgree cfg c i).trans (and_congr_right ?_)
  rintro rfl
  rw [illegalIf_encode, Bool.not_eq_false']

/-! ## Example words (30_encoding.md R107) -/

/-- Settles O3: the examples are encodings, except for a must-be-zero bit and a reserved opcode. -/
theorem exampleWordsDecode : Obligations.ExampleWordsDecode := by
  have agree := decodeAndEncodeAgree Config.reference
  simp only [Obligations.ExampleWordsDecode, agree]
  decide

end Sys2Proof

namespace Sys2Proof.Machine

open Sys2Proof

/-! ## Words that do not decode (30_encoding.md R106) -/

/-- The step at the ENGINE's moment of a running command: its commit point (48_system.md R340). -/
theorem step_engine_running {s : State} {c : Word} {es : List Event} (he : s.engine = .running c)
    (h : s.agenda = .engine :: es) : step s = commit c (s.withAgenda es) := by
  simp only [step, moveOn, h, engineMoment, State.withAgenda_engine, he]

/-- Settles O5: the commit point of such a word takes IllegalCommand. -/
theorem undecodableWordRaisesIllegalCommand : Obligations.UndecodableWordRaisesIllegalCommand := by
  intro s c es he h hdec
  rcases commit_cases c (s.withAgenda es) with ⟨i, hi, -⟩ | ⟨r, -, hraise⟩
  · exact absurd hi (hdec i)
  · exact (step_engine_running he h).trans hraise

end Sys2Proof.Machine
end

section
/-! SUPPORT. Proofs about GF(2^8), the State transforms and the commands on them (40_gf_state.md). A law of the field
product or of a column transform is additive, so it is checked on single bits; the commands are read byte by byte
through the columns of the State. -/

namespace Sys2Proof.Machine

open Sys2Proof

/-! ## What the commands that store a fixed number of bytes leave (R149) -/

/-- The commit point of a command whose rule can only store a byte string of its stored length: an exception, or
that string in `DBUF` and its length in `DLEN`. -/
theorem exec_frame_of_stores {i : Instr} {s t : State}
    (hrule : ∀ u, ruleOf i s = .ok u → ∃ x : Bytes, x.length = storedLength i s ∧ u = s.putDbuf x)
    (h : exec i s = .next t) :
    (∃ x : Exc, t = { s with engine := .idle, err := true, errcode := x.code, errcmd := encode i }) ∨
    (t = { s with engine := .idle, done := true, mem := t.mem, dlen := BitVec.ofNat 16 (storedLength i s) } ∧
      ∀ a, ¬(dbufBase ≤ a ∧ a < dbufBase + storedLength i s) → Memory.read t.mem a = Memory.read s.mem a) := by
  rw [exec_eq] at h
  rcases finish_next h with ⟨u, hu, rfl⟩ | ⟨x, -, rfl⟩
  · obtain ⟨x, hx, rfl⟩ := hrule u hu
    rw [← hx]
    exact .inr ⟨rfl, fun a ha => s.read_putDbuf_other x ha⟩
  · exact .inl ⟨x, rfl⟩

/-- Settles O14: each of the rules stores one byte or one block. -/
theorem frameOfFixedDbufWriters : Obligations.FrameOfFixedDbufWriters := by
  intro i l round s t hi h
  refine exec_frame_of_stores (fun u hu => ?_) h
  have ofSt {f : Block → Block} (hu : stRule f l s = .ok u) : ∃ x : Bytes, x.length = 16 ∧ u = s.putDbuf x :=
    ⟨_, length_blockBytes _, (stRule_ok hu).2⟩
  have ofBlock {f : Block → Vector Quad 60 → Nat → Block} (hu : blockRule f l s = .ok u) :
      ∃ x : Bytes, x.length = 16 ∧ u = s.putDbuf x :=
    ⟨_, length_blockBytes _, (blockRule_ok hu).2.2⟩
  simp only [List.mem_cons, List.not_mem_nil, or_false] at hi
  rcases hi with rfl | rfl | rfl | rfl | rfl | rfl | rfl | rfl | rfl | rfl
  · exact ⟨_, rfl, (gfMulRule_ok hu).2⟩
  · exact ofSt hu
  · exact ofSt hu
  · exact ofSt hu
  · exact ofSt hu
  · exact ofSt hu
  · exact ofSt hu
  · exact ⟨_, length_blockBytes _, (stAddroundkeyRule_ok hu).2.2.2⟩
  · exact ofBlock hu
  · exact ofBlock hu

/-- The commit point of a command whose rule stores a block: it completes, and `DBUF[0..15]` holds the block. -/
theorem exec_stores_block {i : Instr} {s : State} (hmem : Memory.wf s.mem = true) {b : Block}
    (hrule : ruleOf i s = .ok (s.putDbuf (blockBytes b))) {P : State → Prop}
    (hP : ∀ t : State, (∀ k, k < 16 → t.dbufByte k = blockByte b k) → P t) :
    ∃ t, exec i s = .next t ∧ t.done = true ∧ t.err = s.err ∧ t.dlen = 16 ∧ P t := by
  refine ⟨(s.putDbuf (blockBytes b)).complete, ?_, rfl, rfl, rfl, hP _ fun k hk => ?_⟩
  · rw [exec_eq, hrule, finish_ok]
  · exact State.dbufByte_putDbuf hmem (blockBytes b) hk

/-! ## GF.MUL (R150) -/

/-- Settles O26: one byte is stored, so `DBUF[1]` is outside the stored ones. -/
theorem gfMulCommand : Obligations.GfMulCommand := by
  intro s hmem
  constructor
  · have hrule : ruleOf (.gfMul 2) s = .ok (s.putDbuf [gfmul (s.dbufByte 0) (s.dbufByte 1)]) := rfl
    refine ⟨_, (exec_eq _ s).trans (congrArg _ hrule), rfl, rfl, rfl, ?_, ?_⟩
    · exact State.dbufByte_putDbuf hmem [_] Nat.zero_lt_one
    · exact s.read_putDbuf_other [_] (by simp)
  · intro l hl
    rw [exec_eq, show ruleOf (.gfMul l) s = .error .contractViolation from if_pos hl, finish_error]
    rfl

/-! ## The field product (R131, R132) -/

/-- The XOR of the lowest n bits of a byte. -/
def lowBits (a : Byte) : Nat → Byte
  | 0 => 0
  | n + 1 => lowBits a n ^^^ if a.getLsbD n then 1#8 <<< n else 0

theorem lowBits_eight (a : Byte) : lowBits a 8 = a := by
  revert a; decide +kernel

/-- What holds of the single bits and of XORs holds of every byte. -/
theorem byte_xor_induction {P : Byte → Prop} (xor : ∀ a b, P a → P b → P (a ^^^ b))
    (bit : ∀ n, n < 8 → P (1#8 <<< n)) (a : Byte) : P a := by
  have zero : P 0 := xor _ _ (bit 0 (by decide)) (bit 0 (by decide))
  have low : ∀ n, n ≤ 8 → P (lowBits a n) := by
    intro n
    induction n with
    | zero => exact fun _ => zero
    | succ n ih =>
      intro hn
      refine xor _ _ (ih (by omega)) ?_
      split
      · exact bit n hn
      · exact zero
  exact lowBits_eight a ▸ low 8 le_rfl

theorem gfmul_comm (a b : Byte) : gfmul a b = gfmul b a := by
  induction a using byte_xor_induction with
  | xor a a' h h' => rw [gfmul_xor_left, gfmul_xor_right, h, h']
  | bit n hn =>
    induction b using byte_xor_induction with
    | xor b b' h h' => rw [gfmul_xor_left, gfmul_xor_right, h, h']
    | bit m hm =>
      have onBits : ∀ n < 8, ∀ m < 8, gfmul (1#8 <<< n) (1#8 <<< m) = gfmul (1#8 <<< m) (1#8 <<< n) := by
        decide +kernel
      exact onBits n hn m hm

theorem gfmul_zero (a : Byte) : gfmul a 0 = 0 := by
  have h := gfmul_xor_right a 0 0
  rwa [BitVec.xor_self, BitVec.xor_self] at h

/-- The product by 02 is one doubling of R131's loop. -/
theorem gfmul_two (a : Byte) : gfmul 0x02 a = (a <<< 1) ^^^ (if a.getLsbD 7 then 0x1B#8 else 0) := by
  have loop : gfmul a 0x02 = 0#8 ^^^ if a.getLsbD 7 then (a <<< 1) ^^^ 0x1B#8 else a <<< 1 := rfl
  rw [gfmul_comm, loop, BitVec.zero_xor]
  split
  · rfl
  · exact (BitVec.xor_zero).symm

/-- Settles O27. -/
theorem fieldProductLaws : Obligations.FieldProductLaws := by
  refine ⟨gfmul_comm, gfmul_xor_right, fun a => ⟨?_, gfmul_zero a, gfmul_one a⟩, gfmul_two, ?_⟩
  · rw [gfmul_comm, gfmul_zero]
  · decide +kernel

/-! ## The substitution tables (R136, R137) -/

/-- The affine step of R136. -/
def affine (y : Byte) : Byte :=
  y ^^^ y.rotateLeft 1 ^^^ y.rotateLeft 2 ^^^ y.rotateLeft 3 ^^^ y.rotateLeft 4 ^^^ 0x63

/-- The byte that the affine step takes to z. -/
def affineInverse (z : Byte) : Byte := z.rotateLeft 1 ^^^ z.rotateLeft 3 ^^^ z.rotateLeft 6 ^^^ 0x05

theorem affine_affineInverse (z : Byte) : affine (affineInverse z) = z := by
  revert z; decide +kernel

/-- Before the affine step the table holds the field inverses. -/
theorem gfmul_affineInverse_sbox (x : Byte) (hx : x ≠ 0) : gfmul x (affineInverse (sbox x)) = 1 := by
  revert x; decide +kernel

theorem sbox_ne_self (x : Byte) : sbox x ≠ x := by
  revert x; decide +kernel

/-- Settles O28: the inverse of x is what the affine step takes to SBOX[x]. -/
theorem substitutionTablesFollowTheField : Obligations.SubstitutionTablesFollowTheField := by
  refine ⟨by decide, by decide, by decide, by decide, by decide, fun x => ⟨invSbox_sbox x, sbox_ne_self x⟩,
    fun x hx => ?_⟩
  exact ⟨affineInverse (sbox x), gfmul_affineInverse_sbox x hx, (affine_affineInverse (sbox x)).symm⟩

/-! ## The column transforms undo each other (R142, R143, R146) -/

/-- The column with one byte at row k and zeros elsewhere. -/
def singleByte (k : Nat) (b : Byte) : Quad :=
  ⟨if k = 0 then b else 0, if k = 1 then b else 0, if k = 2 then b else 0, if k = 3 then b else 0⟩

theorem singleByte_xor (k : Nat) (a b : Byte) :
    singleByte k (a ^^^ b) = xorQuad (singleByte k a) (singleByte k b) := by
  have lane (p : Prop) [Decidable p] : (if p then a ^^^ b else 0) = (if p then a else 0) ^^^ (if p then b else 0) := by
    split <;> simp
  simp only [singleByte, xorQuad, lane]

theorem eq_xorQuad_singleByte (q : Quad) :
    q = xorQuad (xorQuad (singleByte 0 q.b0) (singleByte 1 q.b1))
      (xorQuad (singleByte 2 q.b2) (singleByte 3 q.b3)) := by
  simp [xorQuad, singleByte]

/-- What holds of the columns of one bit and of XORs holds of every column. -/
theorem quad_xor_induction {P : Quad → Prop} (xor : ∀ p q, P p → P q → P (xorQuad p q))
    (bit : ∀ k, k < 4 → ∀ n, n < 8 → P (singleByte k (1#8 <<< n))) (q : Quad) : P q := by
  have single (k : Nat) (hk : k < 4) (b : Byte) : P (singleByte k b) := by
    induction b using byte_xor_induction with
    | xor a b ha hb => exact singleByte_xor k a b ▸ xor _ _ ha hb
    | bit n hn => exact bit k hk n hn
  rw [eq_xorQuad_singleByte q]
  exact xor _ _ (xor _ _ (single 0 (by decide) _) (single 1 (by decide) _))
    (xor _ _ (single 2 (by decide) _) (single 3 (by decide) _))

theorem mixColumn_xorQuad (p q : Quad) : mixColumn (xorQuad p q) = xorQuad (mixColumn p) (mixColumn q) := by
  simp only [mixColumn, xorQuad, gfmul_xor_right, Quad.mk.injEq]
  refine ⟨?_, ?_, ?_, ?_⟩ <;> ac_rfl

theorem invMixColumn_xorQuad (p q : Quad) :
    invMixColumn (xorQuad p q) = xorQuad (invMixColumn p) (invMixColumn q) := by
  simp only [invMixColumn, xorQuad, gfmul_xor_right, Quad.mk.injEq]
  refine ⟨?_, ?_, ?_, ?_⟩ <;> ac_rfl

theorem invMixColumn_mixColumn (q : Quad) : invMixColumn (mixColumn q) = q :=
  quad_xor_induction (P := fun q => invMixColumn (mixColumn q) = q)
    (fun p q hp hq => by rw [mixColumn_xorQuad, invMixColumn_xorQuad, hp, hq]) (by decide +kernel) q

theorem mixColumn_invMixColumn (q : Quad) : mixColumn (invMixColumn q) = q :=
  quad_xor_induction (P := fun q => mixColumn (invMixColumn q) = q)
    (fun p q hp hq => by rw [invMixColumn_xorQuad, mixColumn_xorQuad, hp, hq]) (by decide +kernel) q

/-! ## The State transforms undo each other (R146) -/

/-- A byte function undone by another is undone on every byte of a column. -/
theorem mapQuad_cancel {f g : Byte → Byte} (h : ∀ x, g (f x) = x) (q : Quad) : mapQuad g (mapQuad f q) = q := by
  simp only [mapQuad, h]

theorem invSubBytes_subBytes (s : Block) : invSubBytes (subBytes s) = s := by
  simp only [invSubBytes, subBytes, mapQuad_cancel invSbox_sbox]

theorem subBytes_invSubBytes (s : Block) : subBytes (invSubBytes s) = s := by
  simp only [invSubBytes, subBytes, mapQuad_cancel sbox_invSbox]

theorem invShiftRows_shiftRows (s : Block) : invShiftRows (shiftRows s) = s := rfl

theorem shiftRows_invShiftRows (s : Block) : shiftRows (invShiftRows s) = s := rfl

theorem invMixColumns_mixColumns (s : Block) : invMixColumns (mixColumns s) = s := by
  simp only [invMixColumns, mixColumns, invMixColumn_mixColumn]

theorem mixColumns_invMixColumns (s : Block) : mixColumns (invMixColumns s) = s := by
  simp only [invMixColumns, mixColumns, mixColumn_invMixColumn]

theorem invSubBytes_invShiftRows (s : Block) : invSubBytes (invShiftRows s) = invShiftRows (invSubBytes s) := rfl

/-- Settles O29. -/
theorem transformsAreInverse : Obligations.TransformsAreInverse := fun s =>
  ⟨invSubBytes_subBytes s, subBytes_invSubBytes s, invShiftRows_shiftRows s, shiftRows_invShiftRows s,
    invMixColumns_mixColumns s, mixColumns_invMixColumns s, (shiftRows_subBytes s).symm, invSubBytes_invShiftRows s,
    addRoundKey_cancel s⟩

/-! ## The transforms byte by byte (R138 to R144) -/

/-- Column c of the State, bytes 4c to 4c + 3 (R133). -/
def stateColumn (b : Block) (c : Nat) : Quad := [b.c0, b.c1, b.c2, b.c3].getD c Quad.zero

theorem blockByte_stateColumn (b : Block) {c r : Nat} (hc : c < 4) (hr : r < 4) :
    blockByte b (4 * c + r) = quadByte (stateColumn b c) r := by
  interval_cases c <;> interval_cases r <;> rfl

theorem blockByte_subBytes (b : Block) {i : Nat} (hi : i < 16) : blockByte (subBytes b) i = sbox (blockByte b i) := by
  interval_cases i <;> rfl

theorem blockByte_invSubBytes (b : Block) {i : Nat} (hi : i < 16) :
    blockByte (invSubBytes b) i = invSbox (blockByte b i) := by
  interval_cases i <;> rfl

theorem blockByte_shiftRows (b : Block) {r c : Nat} (hr : r < 4) (hc : c < 4) :
    blockByte (shiftRows b) (r + 4 * c) = blockByte b (r + 4 * ((c + r) % 4)) := by
  interval_cases r <;> interval_cases c <;> rfl

theorem blockByte_invShiftRows (b : Block) {r c : Nat} (hr : r < 4) (hc : c < 4) :
    blockByte (invShiftRows b) (r + 4 * ((c + r) % 4)) = blockByte b (r + 4 * c) := by
  rw [← blockByte_shiftRows _ hr hc, shiftRows_invShiftRows]

theorem blockByte_addRoundKey (b : Block) (w : Vector Quad 60) (round : Nat) {r c : Nat} (hr : r < 4) (hc : c < 4) :
    blockByte (addRoundKey b w round) (r + 4 * c) =
      blockByte b (r + 4 * c) ^^^ quadByte (w[4 * round + c]?.getD Quad.zero) r := by
  interval_cases r <;> interval_cases c <;> rfl

/-- Row r of the matrix whose rows are m, each rotated one place further, times the column a. -/
def rotatedRowProduct (m : List Byte) (r : Nat) (a : Nat → Byte) : Byte :=
  ((List.range 4).map fun k => gfmul (m.getD ((k + 4 - r) % 4) 0) (a k)).foldl (· ^^^ ·) 0

theorem rotatedRowProduct_congr (m : List Byte) (r : Nat) {a a' : Nat → Byte} (h : ∀ k, k < 4 → a k = a' k) :
    rotatedRowProduct m r a = rotatedRowProduct m r a' := by
  refine congrArg (List.foldl _ 0) (List.map_congr_left fun k hk => ?_)
  rw [h k (List.mem_range.1 hk)]

theorem rotatedRowProduct_eq (m : List Byte) (r : Nat) (a : Nat → Byte) :
    rotatedRowProduct m r a =
      gfmul (m.getD ((0 + 4 - r) % 4) 0) (a 0) ^^^ gfmul (m.getD ((1 + 4 - r) % 4) 0) (a 1) ^^^
        gfmul (m.getD ((2 + 4 - r) % 4) 0) (a 2) ^^^ gfmul (m.getD ((3 + 4 - r) % 4) 0) (a 3) := by
  simp [rotatedRowProduct, List.range_succ]

theorem quadByte_mixColumn (q : Quad) {r : Nat} (hr : r < 4) :
    quadByte (mixColumn q) r = rotatedRowProduct [0x02, 0x03, 0x01, 0x01] r (quadByte q) := by
  rw [rotatedRowProduct_eq]
  interval_cases r <;> simp [quadByte, mixColumn]

theorem quadByte_invMixColumn (q : Quad) {r : Nat} (hr : r < 4) :
    quadByte (invMixColumn q) r = rotatedRowProduct [0x0e, 0x0b, 0x0d, 0x09] r (quadByte q) := by
  rw [rotatedRowProduct_eq]
  interval_cases r <;> rfl

theorem stateColumn_mixColumns (b : Block) {c : Nat} (hc : c < 4) :
    stateColumn (mixColumns b) c = mixColumn (stateColumn b c) := by
  interval_cases c <;> rfl

theorem stateColumn_invMixColumns (b : Block) {c : Nat} (hc : c < 4) :
    stateColumn (invMixColumns b) c = invMixColumn (stateColumn b c) := by
  interval_cases c <;> rfl

theorem blockByte_mixColumns (b : Block) {c r : Nat} (hc : c < 4) (hr : r < 4) :
    blockByte (mixColumns b) (4 * c + r) =
      rotatedRowProduct [0x02, 0x03, 0x01, 0x01] r fun k => blockByte b (4 * c + k) := by
  rw [blockByte_stateColumn _ hc hr, stateColumn_mixColumns b hc, quadByte_mixColumn _ hr]
  exact rotatedRowProduct_congr _ r fun k hk => (blockByte_stateColumn b hc hk).symm

theorem blockByte_invMixColumns (b : Block) {c r : Nat} (hc : c < 4) (hr : r < 4) :
    blockByte (invMixColumns b) (4 * c + r) =
      rotatedRowProduct [0x0e, 0x0b, 0x0d, 0x09] r fun k => blockByte b (4 * c + k) := by
  rw [blockByte_stateColumn _ hc hr, stateColumn_invMixColumns b hc, quadByte_invMixColumn _ hr]
  exact rotatedRowProduct_congr _ r fun k hk => (blockByte_stateColumn b hc hk).symm

/-! ## The ST commands (R151 to R157) -/

/-- A checked ST.ADDROUNDKEY stores the State with the round key added. -/
theorem stAddroundkeyRule_stores {s : State} {round : BitVec 4} (hk : s.kvalid = true)
    (hr : round.toNat ≤ s.aesMode.nr) :
    stAddroundkeyRule round 16 s = .ok (s.putDbuf (blockBytes (addRoundKey s.dbufBlock s.w round.toNat))) := by
  simp [stAddroundkeyRule, stRule, hk, Nat.not_lt.2 hr]

/-- Settles O24: each command stores its transform of `DBUF[0..15]`, whose bytes are those of the State. -/
theorem byteLaneCommands : Obligations.ByteLaneCommands := by
  intro s hmem
  refine ⟨exec_stores_block hmem (b := subBytes s.dbufBlock) rfl fun t ht i hi => ?_,
    exec_stores_block hmem (b := invSubBytes s.dbufBlock) rfl fun t ht i hi => ?_,
    exec_stores_block hmem (b := shiftRows s.dbufBlock) rfl fun t ht r c hr hc => ?_,
    exec_stores_block hmem (b := invShiftRows s.dbufBlock) rfl fun t ht r c hr hc => ?_,
    fun round hk hround => ?_⟩
  · rw [ht i hi, blockByte_subBytes _ hi, s.blockByte_dbufBlock hi]
  · rw [ht i hi, blockByte_invSubBytes _ hi, s.blockByte_dbufBlock hi]
  · rw [ht _ (by omega), blockByte_shiftRows _ hr hc, s.blockByte_dbufBlock (by omega)]
  · rw [ht _ (by omega), blockByte_invShiftRows _ hr hc, s.blockByte_dbufBlock (by omega)]
  · rw [← AesMode.nr_eq] at hround
    refine exec_stores_block (i := .stAddroundkey round 16) hmem (stAddroundkeyRule_stores hk hround)
      fun t ht r c hr hc => ?_
    rw [ht _ (by omega), blockByte_addRoundKey _ _ _ hr hc, s.blockByte_dbufBlock (by omega)]
    rfl

/-- Settles O25: byte r of column c is the product of row r with the column; the worked examples are evaluated. -/
theorem mixColumnCommands : Obligations.MixColumnCommands := by
  refine ⟨fun s hmem => ⟨exec_stores_block hmem (b := mixColumns s.dbufBlock) rfl fun t ht c r hc hr => ?_,
    exec_stores_block hmem (b := invMixColumns s.dbufBlock) rfl fun t ht c r hc hr => ?_⟩, by decide, by decide⟩
  · rw [ht _ (by omega), blockByte_mixColumns _ hc hr]
    exact rotatedRowProduct_congr _ r fun k hk => s.blockByte_dbufBlock (by omega)
  · rw [ht _ (by omega), blockByte_invMixColumns _ hc hr]
    exact rotatedRowProduct_congr _ r fun k hk => s.blockByte_dbufBlock (by omega)

end Sys2Proof.Machine
end

section
/-! SUPPORT. Proofs about key expansion (41_key_expansion.md) and about what AES.KEYEXP and the session commands leave.
The schedule is read off the list of words that the loop of R174 builds, word by word. -/

namespace Sys2Proof.Machine

open Sys2Proof

/-! ## What AES.KEYEXP and the session commands leave (R175, 43_modes.md R209 to R211) -/

/-- The commit point of a command: an exception, or what its rule gives, completed. -/
theorem exec_raises_or_completes {i : Instr} {s t : State} (h : exec i s = .next t) :
    (∃ x : Exc, t = { s with engine := .idle, err := true, errcode := x.code, errcmd := encode i }) ∨
      ∃ u, ruleOf i s = .ok u ∧ t = u.complete := by
  rw [exec_eq] at h
  rcases finish_next h with hu | ⟨x, -, rfl⟩
  · exact .inr hu
  · exact .inl ⟨x, rfl⟩

/-- Absorbing writes the queue, the chaining value and the buffer (43_modes.md R206). -/
theorem State.absorb_frame (s : State) (x : Bytes) :
    ∃ q c b n, s.absorb x = { s with outq := q, chain := c, buf := b, bufLen := n } :=
  ⟨_, _, _, _, rfl⟩

/-- So does the end of a session, besides `PHASE` (43_modes.md R211). -/
theorem State.endSession_frame (s : State) :
    ∃ q c b n p, s.endSession = { s with outq := q, chain := c, buf := b, bufLen := n, phase := p } :=
  ⟨_, _, _, _, _, rfl⟩

/-- Settles O16: the state each of the four rules leaves differs from the old one in the named fields only. -/
theorem frameOfKeyAndSessionCommands : Obligations.FrameOfKeyAndSessionCommands := by
  intro i ks dir chain pad l s t h
  refine ⟨?_, ?_, ?_, ?_⟩ <;> rintro rfl
  · refine (exec_raises_or_completes h).imp_right fun ⟨u, hu, ht⟩ => ?_
    obtain ⟨m, -, -, rfl⟩ := aesKeyexpRule_ok hu
    rw [ht]
    rfl
  · refine (exec_raises_or_completes h).imp_right fun ⟨u, hu, ht⟩ => ?_
    obtain ⟨p, -, -, rfl⟩ := sesInitRule_ok hu
    rw [ht]
    rfl
  · refine (exec_raises_or_completes h).imp_right fun ⟨u, hu, ht⟩ => ?_
    obtain ⟨-, -, -, rfl⟩ := sesUpdateRule_ok hu
    obtain ⟨q, c, b, n, ha⟩ := s.absorb_frame (s.dbuf l.toNat)
    rw [ht, ha]
    rfl
  · refine (exec_raises_or_completes h).imp_right fun ⟨u, hu, ht⟩ => ?_
    obtain ⟨-, -, -, -, rfl⟩ := sesFinalRule_ok hu
    obtain ⟨q, c, b, n, ha⟩ := s.absorb_frame (s.dbuf l.toNat)
    obtain ⟨q', c', b', n', p, he⟩ := (s.absorb (s.dbuf l.toNat)).endSession_frame
    rw [ht, he, ha]
    rfl

/-! ## The key sizes (R170) -/

theorem AesMode.nk_eq (m : AesMode) : m.nk = 4 + 2 * m.code.toNat := by
  cases m <;> rfl

/-- Every `ks` but 3 selects the key size it encodes. -/
theorem exists_aesModeOf {ks : BitVec 2} (h : ks ≠ 3) : ∃ m, aesModeOf ks = some m ∧ m.code = ks := by
  revert ks
  decide

/-! ## The words of the schedule (R174) -/

section
variable {key : List Quad} {nk nr : Nat} (hkey : key.length = nk)
include hkey

theorem length_keyExpansion (hnk : nk ≤ 4 * (nr + 1)) : (keyExpansion key nk nr).length = 4 * (nr + 1) := by
  rw [keyExpansion, length_expandWords]
  omega

/-- "First Nk words copied directly from the key." -/
theorem getD_keyExpansion_key {i : Nat} (hi : i < nk) :
    (keyExpansion key nk nr).getD i Quad.zero = key.getD i Quad.zero :=
  getD_expandWords_old nk _ key i (hkey ▸ hi)

/-- Each word above them follows the recurrence. -/
theorem getD_keyExpansion_next (hpos : 0 < nk) {i : Nat} (hi : nk ≤ i) (hlt : i < 4 * (nr + 1)) :
    (keyExpansion key nk nr).getD i Quad.zero = nextWord nk i (keyExpansion key nk nr) :=
  getD_expandWords_new nk hpos _ key (hkey ▸ hpos) i (hkey ▸ hi) (by omega)

end

/-- The schedule that AES.KEYEXP derives from `KEY` at a key size. -/
def State.expandedKey (s : State) (m : AesMode) : List Quad :=
  keyExpansion ((List.range m.nk).map s.keyWord) m.nk m.nr

theorem State.length_keyWords (s : State) (n : Nat) : ((List.range n).map s.keyWord).length = n := by simp

theorem State.length_expandedKey (s : State) (m : AesMode) : (s.expandedKey m).length = 4 * (m.nr + 1) :=
  length_keyExpansion (s.length_keyWords _) (by cases m <;> decide)

theorem State.getD_expandedKey_key (s : State) (m : AesMode) {i : Nat} (hi : i < m.nk) :
    (s.expandedKey m).getD i Quad.zero = s.keyWord i := by
  rw [State.expandedKey, getD_keyExpansion_key (s.length_keyWords _) hi]
  simp [hi]

theorem State.getD_expandedKey_next (s : State) (m : AesMode) {i : Nat} (hi : m.nk ≤ i) (hlt : i < 4 * (m.nr + 1)) :
    (s.expandedKey m).getD i Quad.zero = nextWord m.nk i (s.expandedKey m) :=
  getD_keyExpansion_next (s.length_keyWords _) (by cases m <;> decide) hi hlt

theorem quadByte_keyWord (s : State) (i : Nat) {r : Nat} (hr : r < 4) :
    quadByte (s.keyWord i) r = Memory.read s.mem (keyBase + 4 * i + r) := by
  interval_cases r <;> rfl

/-! ## AES.KEYEXP (R175, R176) -/

/-- The state AES.KEYEXP's rule leaves at a key size (R175). -/
def State.deriveSchedule (s : State) (m : AesMode) : State :=
  { s with w := scheduleOf (s.expandedKey m), aesMode := m, kvalid := true }

/-- The schedule register holds the derived words, and zero above them (R175). -/
theorem State.scheduleWord_deriveSchedule (s : State) (m : AesMode) (i : Nat) :
    (s.deriveSchedule m).scheduleWord i = (s.expandedKey m).getD i Quad.zero := by
  have hlen : (s.expandedKey m).length ≤ 60 := by
    rw [State.length_expandedKey]
    cases m <;> decide
  rw [State.scheduleWord, State.deriveSchedule, getD_scheduleOf]
  split
  · rfl
  · exact (List.getD_eq_default _ _ (by omega)).symm

theorem aesKeyexpRule_refuses {ks : BitVec 2} {s : State} (h : ks = 3 ∨ s.phase = .active) :
    aesKeyexpRule ks s = .error .contractViolation := by
  unfold aesKeyexpRule
  rcases h with rfl | h
  · rfl
  · cases aesModeOf ks with
    | none => rfl
    | some m => exact if_pos h

theorem aesKeyexpRule_derives {ks : BitVec 2} {s : State} {m : AesMode} (hm : aesModeOf ks = some m)
    (hp : s.phase ≠ .active) :
    aesKeyexpRule ks s = .ok (s.deriveSchedule m) := by
  simp only [aesKeyexpRule, hm, if_neg hp]
  rfl

theorem exec_aesKeyexp_derives {ks : BitVec 2} {s : State} {m : AesMode} (hm : aesModeOf ks = some m)
    (hp : s.phase ≠ .active) : exec (.aesKeyexp ks) s = .next (s.deriveSchedule m).complete := by
  rw [exec_eq, ruleOf, aesKeyexpRule_derives hm hp, finish_ok]

/-- Settles O21: the words of the register are those of the loop, each a key word, a word of the recurrence, or zero. -/
theorem keyScheduleFollowsRecurrence : Obligations.KeyScheduleFollowsRecurrence := by
  refine ⟨by decide, fun ks s => ⟨fun h => ?_, fun hks hp => ?_⟩⟩
  · rw [exec_eq, ruleOf, aesKeyexpRule_refuses h, finish_error]
    rfl
  · obtain ⟨m, hm, rfl⟩ := exists_aesModeOf hks
    refine ⟨_, exec_aesKeyexp_derives hm hp, ?_, rfl, ?_⟩
    · simp only [State.deriveSchedule, State.complete]
    have hnr : 4 * (11 + 2 * m.code.toNat) = 4 * (m.nr + 1) := by
      rw [m.nr_eq]
      omega
    simp only [State.scheduleWord_complete, State.scheduleWord_deriveSchedule, ← m.nk_eq, hnr]
    refine ⟨fun i hi r hr => ?_, fun i hi hlt => ?_, fun i hi => ?_⟩
    · rw [s.getD_expandedKey_key m hi, quadByte_keyWord s i hr]
      rfl
    · rw [s.getD_expandedKey_next m hi hlt, nextWord]
      simp only [xorRcon_eq]
    · exact List.getD_eq_default _ _ (by rwa [State.length_expandedKey])

end Sys2Proof.Machine
end

section
/-! SUPPORT. Proofs about Cipher, InvCipher and the commands AES.ENCB and AES.DECB (42_cipher.md). The rounds are folds
over the round numbers; a round of one is undone by the round of the other with the same number, seen through the
byte step between them, and so the fold over the reversed numbers undoes the fold. -/

namespace Sys2Proof.Machine

open Sys2Proof

/-! ## The rounds as folds over the round numbers (R185, R186) -/

/-- One full round of `Cipher`. -/
def cipherRound (w : Vector Quad 60) (x : Block) (r : Nat) : Block :=
  addRoundKey (mixColumns (shiftRows (subBytes x))) w r

/-- One middle round of `InvCipher`. -/
def invCipherRound (w : Vector Quad 60) (x : Block) (r : Nat) : Block :=
  invMixColumns (addRoundKey (invSubBytes (invShiftRows x)) w r)

/-- The numbers 1 to Nr - 1 of the rounds between the first round key and the last one, ascending. -/
def middleRounds (nr : Nat) : List Nat := (List.range (nr - 1)).map (· + 1)

theorem cipherRounds_eq_foldl (w : Vector Quad 60) :
    ∀ (n r : Nat) (x : Block), cipherRounds w n r x = (List.range' r n).foldl (cipherRound w) x
  | 0, _, _ => rfl
  | n + 1, r, x => cipherRounds_eq_foldl w n (r + 1) (cipherRound w x r)

theorem invCipherRounds_eq_foldl (w : Vector Quad 60) :
    ∀ (n : Nat) (x : Block), invCipherRounds w n x = (List.range' 1 n).reverse.foldl (invCipherRound w) x
  | 0, _ => rfl
  | n + 1, x => by
    have hlast : (List.range' 1 (n + 1)).reverse = (n + 1) :: (List.range' 1 n).reverse := by
      rw [List.range'_1_concat, List.reverse_concat, Nat.add_comm]
    rw [hlast]
    exact invCipherRounds_eq_foldl w n (invCipherRound w x (n + 1))

theorem middleRounds_eq_range' (nr : Nat) : middleRounds nr = List.range' 1 (nr - 1) := by
  simp only [middleRounds, List.range'_eq_map_range, Nat.add_comm 1]

theorem cipher_eq_foldl (b : Block) (w : Vector Quad 60) (nr : Nat) :
    cipher b w nr =
      addRoundKey (shiftRows (subBytes ((middleRounds nr).foldl (cipherRound w) (addRoundKey b w 0)))) w nr := by
  rw [cipher, cipherRounds_eq_foldl, middleRounds_eq_range']

theorem invCipher_eq_foldl (b : Block) (w : Vector Quad 60) (nr : Nat) :
    invCipher b w nr =
      addRoundKey (invSubBytes (invShiftRows
        ((middleRounds nr).reverse.foldl (invCipherRound w) (addRoundKey b w nr)))) w 0 := by
  rw [invCipher, invCipherRounds_eq_foldl, middleRounds_eq_range']

/-! ## Each undoes the other (R187) -/

/-- If `g` undoes each step of `f` seen through `p`, then the steps of `g` in the reverse order undo those of `f`
seen through `p`. -/
theorem foldl_reverse_undoes_foldl {α β : Type} {f g : α → β → α} {p : α → α} (h : ∀ x r, g (p (f x r)) r = p x) :
    ∀ (rs : List β) (x : α), rs.reverse.foldl g (p (rs.foldl f x)) = p x
  | [], _ => rfl
  | r :: rs, x => by
    rw [List.reverse_cons, List.foldl_concat, List.foldl_cons, foldl_reverse_undoes_foldl h rs (f x r), h]

theorem invCipherRound_cipherRound (w : Vector Quad 60) (x : Block) (r : Nat) :
    invCipherRound w (shiftRows (subBytes (cipherRound w x r))) r = shiftRows (subBytes x) := by
  rw [invCipherRound, invShiftRows_shiftRows, invSubBytes_subBytes, cipherRound, addRoundKey_cancel,
    invMixColumns_mixColumns]

theorem cipherRound_invCipherRound (w : Vector Quad 60) (x : Block) (r : Nat) :
    cipherRound w (invSubBytes (invShiftRows (invCipherRound w x r))) r = invSubBytes (invShiftRows x) := by
  rw [cipherRound, subBytes_invSubBytes, shiftRows_invShiftRows, invCipherRound, mixColumns_invMixColumns,
    addRoundKey_cancel]

theorem invCipher_cipher (b : Block) (w : Vector Quad 60) (nr : Nat) : invCipher (cipher b w nr) w nr = b := by
  have hrounds := foldl_reverse_undoes_foldl (p := fun x => shiftRows (subBytes x)) (invCipherRound_cipherRound w)
    (middleRounds nr) (addRoundKey b w 0)
  rw [cipher_eq_foldl, invCipher_eq_foldl, addRoundKey_cancel, hrounds, invShiftRows_shiftRows, invSubBytes_subBytes,
    addRoundKey_cancel]

theorem cipher_invCipher (b : Block) (w : Vector Quad 60) (nr : Nat) : cipher (invCipher b w nr) w nr = b := by
  have hrounds := foldl_reverse_undoes_foldl (p := fun x => invSubBytes (invShiftRows x))
    (cipherRound_invCipherRound w) (middleRounds nr).reverse (addRoundKey b w nr)
  rw [List.reverse_reverse] at hrounds
  rw [invCipher_eq_foldl, cipher_eq_foldl, addRoundKey_cancel, hrounds, subBytes_invSubBytes, shiftRows_invShiftRows,
    addRoundKey_cancel]

/-! ## AES.ENCB and AES.DECB (R188, R189) -/

/-- The state after a command that stores a block and completes. -/
def State.storeBlock (s : State) (b : Block) : State := (s.putDbuf (blockBytes b)).complete

theorem State.mem_storeBlock (s : State) (b : Block) :
    (s.storeBlock b).mem = Memory.writeBytes s.mem dbufBase (blockBytes b) := rfl

theorem State.w_storeBlock (s : State) (b : Block) : (s.storeBlock b).w = s.w := rfl

theorem State.aesMode_storeBlock (s : State) (b : Block) : (s.storeBlock b).aesMode = s.aesMode := rfl

theorem State.dbufBlock_storeBlock {s : State} (hmem : Memory.wf s.mem = true) (b : Block) :
    (s.storeBlock b).dbufBlock = b := State.dbufBlock_putDbuf hmem b

theorem State.wf_mem_storeBlock {s : State} (hmem : Memory.wf s.mem = true) (b : Block) :
    Memory.wf (s.storeBlock b).mem = true := Memory.wf_writeBytes _ _ hmem

theorem blockRule_stores {s : State} (hk : s.kvalid = true) (f : Block → Vector Quad 60 → Nat → Block) :
    blockRule f 16 s = .ok (s.putDbuf (blockBytes (f s.dbufBlock s.w s.aesMode.nr))) := by
  simp [blockRule, hk]

theorem exec_aesEncb {s : State} (hk : s.kvalid = true) :
    exec (.aesEncb 16) s = .next (s.storeBlock (cipher s.dbufBlock s.w s.aesMode.nr)) := by
  rw [exec_eq, ruleOf, blockRule_stores hk, finish_ok, State.storeBlock]

theorem exec_aesDecb {s : State} (hk : s.kvalid = true) :
    exec (.aesDecb 16) s = .next (s.storeBlock (invCipher s.dbufBlock s.w s.aesMode.nr)) := by
  rw [exec_eq, ruleOf, blockRule_stores hk, finish_ok, State.storeBlock]

/-- Settles O22. -/
theorem blockCommandsRunTheRounds : Obligations.BlockCommandsRunTheRounds := by
  refine ⟨fun b w nr => ⟨cipher_eq_foldl b w nr, invCipher_eq_foldl b w nr⟩, fun s hmem hk => ?_⟩
  rw [← AesMode.nr_eq]
  exact ⟨⟨_, exec_aesEncb hk, rfl, rfl, rfl, State.dbufBlock_storeBlock hmem _⟩,
    ⟨_, exec_aesDecb hk, rfl, rfl, rfl, State.dbufBlock_storeBlock hmem _⟩⟩

/-! ## AES.DECB after AES.ENCB -/

/-- Writing back the bytes of a memory at the offsets where another one may differ from it gives it back. -/
theorem Memory.writeBytes_readBytes_of_agree {m m' : Memory} (h : Memory.wf m = true) (h' : Memory.wf m' = true)
    (a n : Nat) (hout : ∀ b, ¬(a ≤ b ∧ b < a + n) → Memory.read m' b = Memory.read m b) :
    Memory.writeBytes m' a (Memory.readBytes m a n) = m := by
  refine Memory.ext_wfFrom _ _ 0 (Memory.wf_writeBytes _ a h') h fun b => ?_
  rw [Memory.read_writeBytes _ h', Memory.length_readBytes]
  split
  · rw [Memory.getD_readBytes m n a (b - a) (by omega), Nat.add_sub_cancel' (by omega)]
  · exact hout b ‹_›

/-- The block first held, stored again over another one, gives the whole memory back. -/
theorem State.mem_storeBlock_dbufBlock {s : State} (hmem : Memory.wf s.mem = true) (b : Block) :
    ((s.storeBlock b).storeBlock s.dbufBlock).mem = s.mem := by
  have hbytes : blockBytes s.dbufBlock = Memory.readBytes s.mem dbufBase 16 :=
    blockBytes_blockOfBytes (s.length_dbuf 16)
  rw [State.mem_storeBlock, hbytes]
  exact Memory.writeBytes_readBytes_of_agree hmem (State.wf_mem_storeBlock hmem b) dbufBase 16 fun a ha =>
    s.read_putDbuf_other (blockBytes b) ha

/-- Settles O23: AES.DECB reads the block AES.ENCB stored, with the same schedule, and so stores the block first
held. -/
theorem invCipherUndoesCipher : Obligations.InvCipherUndoesCipher := by
  refine ⟨fun b w nr _ => ⟨invCipher_cipher b w nr, cipher_invCipher b w nr⟩, fun s hmem hk => ?_⟩
  have hdec : exec (.aesDecb 16) (s.storeBlock (cipher s.dbufBlock s.w s.aesMode.nr)) =
      .next ((s.storeBlock (cipher s.dbufBlock s.w s.aesMode.nr)).storeBlock s.dbufBlock) := by
    rw [exec_aesDecb (s := s.storeBlock _) hk, State.dbufBlock_storeBlock hmem, State.w_storeBlock,
      State.aesMode_storeBlock, invCipher_cipher]
  have hback := State.mem_storeBlock_dbufBlock hmem (cipher s.dbufBlock s.w s.aesMode.nr)
  exact ⟨_, _, exec_aesEncb hk, hdec, rfl, congrArg (Memory.readBytes · dbufBase 16) hback, hback⟩

end Sys2Proof.Machine
end

section
/-! SUPPORT. Proofs about sessions (43_modes.md). What absorbing and the end of a session leave is said by the complete
blocks of the buffered and the new bytes, and by the bytes behind them; the checks of SES.UPDATE and SES.FINAL are said
by the queue those leave. -/

namespace Sys2Proof.Machine

open Sys2Proof

/-! ## Commit points by the rule's answer (48_system.md R340) -/

theorem exec_of_ruleOf_ok {i : Instr} {s u : State} (h : ruleOf i s = .ok u) : exec i s = .next u.complete := by
  rw [exec_eq, h, finish_ok]

theorem exec_of_ruleOf_error {i : Instr} {s : State} {x : Exc} (h : ruleOf i s = .error x) :
    exec i s = .next (s.raise x (encode i)) := by
  rw [exec_eq, h, finish_error]

/-- A command that leaves `ERR` = 0 has completed. -/
theorem ruleOf_ok_of_exec_no_err {i : Instr} {s t : State} (h : exec i s = .next t) (he : t.err = false) :
    ∃ u, ruleOf i s = .ok u ∧ t = u.complete := by
  rcases exec_raises_or_completes h with ⟨x, rfl⟩ | hu
  · cases he
  · exact hu

/-! ## SES.INIT (R209) -/

theorem exists_padOf {pad : BitVec 2} (h : pad ≠ 3) : ∃ p, padOf pad = some p ∧ p.code = pad := by
  revert pad
  decide

/-- A session just started. -/
def State.openSession (s : State) (dir : Dir) (chainMode : ChainMode) (pad : Pad) : State :=
  { s with
    dir := dir
    chainMode := chainMode
    pad := pad
    chain := s.ivBlock
    buf := Block.zero
    bufLen := 0
    outq := []
    phase := .active }

theorem exec_sesInit_starts {pad : BitVec 2} {p : Pad} {s : State} (hpad : padOf pad = some p)
    (hk : s.kvalid = true) (dir : Dir) (chain : ChainMode) :
    exec (.sesInit dir chain pad) s = .next (s.openSession dir chain p).complete :=
  exec_of_ruleOf_ok <| by simp [ruleOf, sesInitRule, hpad, hk, State.openSession]

theorem exec_sesInit_refuses {pad : BitVec 2} {p : Pad} {s : State} (hpad : padOf pad = some p)
    (hk : s.kvalid = false) (dir : Dir) (chain : ChainMode) :
    exec (.sesInit dir chain pad) s = .next (s.raise .invalidKey (encode (.sesInit dir chain pad))) :=
  exec_of_ruleOf_error <| by simp [ruleOf, sesInitRule, hpad, hk]

theorem State.blockByte_ivBlock (s : State) {i : Nat} (h : i < 16) :
    blockByte s.ivBlock i = Memory.read s.mem (ivBase + i) := by
  rw [State.ivBlock, blockOfBytes, blockByte_blockOfFn _ i h, Memory.getD_readBytes s.mem 16 ivBase i h]

/-- Settles O30, by the two values of `KVALID`. -/
theorem sesInitStartsSession : Obligations.SesInitStartsSession := by
  intro dir chain pad s hne
  obtain ⟨p, hpad, hcode⟩ := exists_padOf hne
  refine ⟨fun hk => ?_, fun hk => exec_sesInit_refuses hpad hk dir chain⟩
  exact ⟨_, exec_sesInit_starts hpad hk dir chain, rfl, hcode, fun i hi => s.blockByte_ivBlock hi⟩

/-! ## Complete blocks and the bytes behind them (R206) -/

/-- The complete sixteen-byte chunks of a byte string. -/
def completeBlocks (d : Bytes) : List Block := chunks (d.length / 16) d

/-- The bytes behind the last complete chunk. -/
def trailingBytes (d : Bytes) : Bytes := d.drop (16 * (d.length / 16))

@[simp] theorem length_completeBlocks (d : Bytes) : (completeBlocks d).length = d.length / 16 := length_chunks ..

@[simp] theorem length_trailingBytes (d : Bytes) : (trailingBytes d).length = d.length % 16 := by
  rw [trailingBytes, List.length_drop]
  omega

theorem drop_append_eq_trailingBytes_append (d y : Bytes) :
    (d ++ y).drop (16 * (d.length / 16)) = trailingBytes d ++ y :=
  List.drop_append_of_le_length (by omega)

theorem length_append_div_sixteen (d y : Bytes) :
    (d ++ y).length / 16 = d.length / 16 + (trailingBytes d ++ y).length / 16 := by
  rw [List.length_append, List.length_append, length_trailingBytes]
  omega

/-- The chunks of a whole are those of a first part, then those of what it left and the second part. -/
theorem completeBlocks_append (d y : Bytes) :
    completeBlocks (d ++ y) = completeBlocks d ++ completeBlocks (trailingBytes d ++ y) := by
  rw [completeBlocks, length_append_div_sixteen, chunks_add, drop_append_eq_trailingBytes_append,
    chunks_append_left _ _ _ (by omega)]
  rfl

theorem trailingBytes_append (d y : Bytes) : trailingBytes (d ++ y) = trailingBytes (trailingBytes d ++ y) := by
  rw [trailingBytes, length_append_div_sixteen, Nat.mul_add, ← List.drop_drop, drop_append_eq_trailingBytes_append]
  rfl

/-- A whole number of blocks is its complete chunks. -/
theorem flatMap_completeBlocks {d : Bytes} (h : d.length % 16 = 0) : (completeBlocks d).flatMap blockBytes = d :=
  flatMap_chunks _ d (by omega)

theorem length_flatMap_blockBytes (bs : List Block) : (bs.flatMap blockBytes).length = 16 * bs.length := by
  simp [List.length_flatMap, Nat.mul_comm]

theorem completeBlocks_flatMap (bs : List Block) : completeBlocks (bs.flatMap blockBytes) = bs := by
  rw [completeBlocks, length_flatMap_blockBytes, Nat.mul_div_cancel_left _ (by norm_num), chunks_flatMap]

/-! ## What absorbing and the end of a session leave (R206, R211) -/

/-- The output blocks of blocks given to a session, and the chaining value after them. -/
def State.transform (s : State) (bs : List Block) : List Block × Block :=
  xformAll s.dir s.chainMode s.w s.aesMode.nr s.chain bs

@[simp] theorem State.length_transform (s : State) (bs : List Block) : (s.transform bs).1.length = bs.length :=
  length_xformAll ..

theorem State.absorb_outq (s : State) (x : Bytes) :
    (s.absorb x).outq = s.outq ++ (s.transform (completeBlocks (s.buffered ++ x))).1.map .block := rfl

theorem State.absorb_chain (s : State) (x : Bytes) :
    (s.absorb x).chain = (s.transform (completeBlocks (s.buffered ++ x))).2 := rfl

theorem State.absorb_bufLen (s : State) (x : Bytes) :
    (s.absorb x).bufLen = BitVec.ofNat 4 (trailingBytes (s.buffered ++ x)).length := rfl

theorem State.absorb_buffered_eq (s : State) (x : Bytes) :
    (s.absorb x).buffered = trailingBytes (s.buffered ++ x) := s.absorb_buffered x

theorem State.buffered_of_bufLen_zero {s : State} (h : s.bufLen = 0) : s.buffered = [] :=
  List.eq_nil_of_length_eq_zero (by rw [length_buffered, h]; rfl)

theorem State.endSession_outq (s : State) :
    s.endSession.outq = s.outq ++ (s.transform (padBlocks s.pad s.buffered)).1.map .block ++ [.endMark] := rfl

theorem State.endSession_chain (s : State) :
    s.endSession.chain = (s.transform (padBlocks s.pad s.buffered)).2 := rfl

theorem State.endSession_buffered (s : State) : s.endSession.buffered = [] := State.buffered_of_bufLen_zero rfl

theorem State.length_absorb_outq (s : State) (x : Bytes) :
    (s.absorb x).outq.length = s.outq.length + (s.bufLen.toNat + x.length) / 16 := by
  simp [State.absorb_outq]

theorem State.length_endSession_outq (s : State) :
    s.endSession.outq.length = s.outq.length + padCount s.pad s.bufLen.toNat + 1 := by
  simp [State.endSession_outq, length_padBlocks, Nat.add_assoc]

/-- Transforming in two runs, seen from the session: the second run starts from what absorbing leaves (R205). -/
theorem State.transform_append (s : State) (x : Bytes) (bs : List Block) :
    s.transform (completeBlocks (s.buffered ++ x) ++ bs) =
      ((s.transform (completeBlocks (s.buffered ++ x))).1 ++ ((s.absorb x).transform bs).1,
        ((s.absorb x).transform bs).2) :=
  xformAll_append ..

/-- The end of a session after its last bytes: they and their padding transformed, and the end marker (R207, R211). -/
theorem State.endSession_absorb (s : State) (x : Bytes)
    (hn : ¬(s.pad = .none ∧ (s.bufLen.toNat + x.length) % 16 ≠ 0)) :
    let r := s.transform (completeBlocks (s.buffered ++ x ++ paddingOf s.pad ((s.bufLen.toNat + x.length) % 16)))
    (s.absorb x).endSession.outq = s.outq ++ r.1.map .block ++ [.endMark] ∧ (s.absorb x).endSession.chain = r.2 := by
  have hlen : (trailingBytes (s.buffered ++ x)).length = (s.bufLen.toNat + x.length) % 16 := by simp
  have hpad : padBlocks s.pad (trailingBytes (s.buffered ++ x)) =
      completeBlocks (trailingBytes (s.buffered ++ x) ++ paddingOf s.pad ((s.bufLen.toNat + x.length) % 16)) := by
    rw [padBlocks_eq _ _ (by omega) (by rwa [hlen]), hlen]
    rfl
  rw [State.endSession_outq, State.endSession_chain, State.absorb_pad, State.absorb_buffered_eq, State.absorb_outq,
    completeBlocks_append, State.transform_append, ← hpad]
  simp

/-! ## SES.UPDATE and SES.FINAL: the checks, by the queue they leave (R210, R211) -/

theorem sesUpdateRule_ok_iff {l : BitVec 16} {s t : State} :
    sesUpdateRule l s = .ok t ↔ s.phase = .active ∧ l.toNat ≤ s.cfg.dbufSize ∧
      (s.absorb (s.dbuf l.toNat)).outq.length ≤ s.cfg.outqDepth ∧ s.absorb (s.dbuf l.toNat) = t := by
  simp only [sesUpdateRule, check_ok, ne_eq, not_not, gt_iff_lt, Nat.not_lt, Except.ok.injEq,
    State.length_absorb_outq, State.length_dbuf]

theorem sesFinalRule_ok_iff {l : BitVec 16} {s t : State} :
    sesFinalRule l s = .ok t ↔ s.phase = .active ∧ l.toNat ≤ s.cfg.dbufSize ∧
      ¬(s.pad = .none ∧ (s.absorb (s.dbuf l.toNat)).bufLen.toNat ≠ 0) ∧
      (s.absorb (s.dbuf l.toNat)).endSession.outq.length ≤ s.cfg.outqDepth ∧
      (s.absorb (s.dbuf l.toNat)).endSession = t := by
  simp only [sesFinalRule, check_ok, ne_eq, not_not, gt_iff_lt, Nat.not_lt, Except.ok.injEq,
    State.length_endSession_outq, State.length_absorb_outq, State.absorb_bufLen_toNat, State.absorb_pad,
    State.length_dbuf]

section
variable {l : BitVec 16} {s : State} (hp : s.phase = .active) (hl : l.toNat ≤ s.cfg.dbufSize)
include hp hl

theorem exec_sesUpdate_completes
    (hq : s.outq.length + (s.bufLen.toNat + l.toNat) / 16 ≤ s.cfg.outqDepth) :
    exec (.sesUpdate l) s = .next (s.absorb (s.dbuf l.toNat)).complete :=
  exec_of_ruleOf_ok <| sesUpdateRule_ok_iff.2
    ⟨hp, hl, by rwa [State.length_absorb_outq, State.length_dbuf], rfl⟩

theorem exec_sesFinal_completes (hn : ¬(s.pad = .none ∧ (s.bufLen.toNat + l.toNat) % 16 ≠ 0))
    (hq : s.outq.length + (s.bufLen.toNat + l.toNat) / 16 + padCount s.pad ((s.bufLen.toNat + l.toNat) % 16) + 1
      ≤ s.cfg.outqDepth) :
    exec (.sesFinal l) s = .next (s.absorb (s.dbuf l.toNat)).endSession.complete :=
  exec_of_ruleOf_ok <| sesFinalRule_ok_iff.2 ⟨hp, hl, by rwa [State.absorb_bufLen_toNat, State.length_dbuf],
    by rwa [State.length_endSession_outq, State.length_absorb_outq, State.absorb_bufLen_toNat, State.length_dbuf],
    rfl⟩

end

theorem padCount_eq (pad : Pad) {r : Nat} (h : r < 16) : padCount pad r = if paddingOf pad r = [] then 0 else 1 := by
  have hne : 16 - r ≠ 0 := by omega
  cases pad with
  | none => rfl
  | pkcs7 => simp [padCount, paddingOf, hne]
  | zero => by_cases hr : r = 0 <;> simp [padCount, paddingOf, hr, hne]

theorem padCount_le_one (pad : Pad) (r : Nat) : padCount pad r ≤ 1 := by
  cases pad with
  | none | pkcs7 => simp [padCount]
  | zero => simp only [padCount]; split <;> omega

/-- Settles O31. -/
theorem sesUpdateAbsorbs : Obligations.SesUpdateAbsorbs := by
  intro l s hp hl hq
  refine ⟨_, exec_sesUpdate_completes hp hl hq, rfl, rfl, hp, ?_⟩
  rw [← AesMode.nr_eq]
  exact ⟨rfl, rfl, s.absorb_buffered _, by simpa using s.absorb_bufLen_toNat (s.dbuf l.toNat)⟩

/-- Settles O32. -/
theorem sesFinalEndsSession : Obligations.SesFinalEndsSession := by
  intro l s hp hl hn hq
  rw [← padCount_eq s.pad (Nat.mod_lt _ (by norm_num))] at hq
  refine ⟨_, exec_sesFinal_completes hp hl hn hq, rfl, rfl, rfl, rfl, rfl, ?_⟩
  have hend := s.endSession_absorb (s.dbuf l.toNat) (by rwa [State.length_dbuf])
  rw [State.length_dbuf] at hend
  rw [← AesMode.nr_eq]
  exact hend

/-- R11's bound on `OUTQ_DEPTH` leaves room for every block of a full `DBUF` and a partial block, a padding block and
the end marker (R212). -/
theorem Config.room_of_wf {c : Config} (h : c.wf = true) {n l : Nat} (hn : n < 16) (hl : l ≤ c.dbufSize) :
    (n + l) / 16 + 2 ≤ c.outqDepth := by
  obtain ⟨-, -, -, -, -, -, -, hq, -⟩ := (Config.wf_iff c).1 h
  omega

/-- Settles O38. -/
theorem anyCommandFitsAnEmptyQueue : Obligations.AnyCommandFitsAnEmptyQueue := by
  intro l s hwf hp hempty hl
  have hroom : (s.bufLen.toNat + l.toNat) / 16 + 2 ≤ s.cfg.outqDepth := Config.room_of_wf hwf s.bufLen.isLt hl
  have hlen : s.outq.length = 0 := by rw [hempty, List.length_nil]
  have hpad := padCount_le_one s.pad ((s.bufLen.toNat + l.toNat) % 16)
  refine ⟨?_, fun hn => ?_⟩
  · have hq : s.outq.length + (s.bufLen.toNat + l.toNat) / 16 ≤ s.cfg.outqDepth := by omega
    refine ⟨_, exec_sesUpdate_completes hp hl hq, rfl, rfl, ?_⟩
    simpa [State.length_absorb_outq] using hq
  · have hq : s.outq.length + (s.bufLen.toNat + l.toNat) / 16 +
        padCount s.pad ((s.bufLen.toNat + l.toNat) % 16) + 1 ≤ s.cfg.outqDepth := by omega
    refine ⟨_, exec_sesFinal_completes hp hl hn hq, rfl, rfl, ?_⟩
    simpa [State.length_endSession_outq, State.length_absorb_outq, State.absorb_bufLen_toNat] using hq

/-! ## The chaining modes (R202 to R204) -/

section
variable (w : Vector Quad 60) (nr : Nat)

theorem xformAll_ecb_encrypt (chain : Block) :
    ∀ bs : List Block, xformAll .encrypt .ecb w nr chain bs = (bs.map fun b => cipher b w nr, chain)
  | [] => rfl
  | b :: bs => by simp [xformAll, xform, xformAll_ecb_encrypt chain bs]

theorem xformAll_ecb_decrypt (chain : Block) :
    ∀ bs : List Block, xformAll .decrypt .ecb w nr chain bs = (bs.map fun b => invCipher b w nr, chain)
  | [] => rfl
  | b :: bs => by simp [xformAll, xform, xformAll_ecb_decrypt chain bs]

/-- CBC encryption leaves the last output block as the chaining value (R203). -/
theorem xformAll_cbc_encrypt_chain : ∀ (bs : List Block) (chain : Block),
    (xformAll .encrypt .cbc w nr chain bs).2 = (xformAll .encrypt .cbc w nr chain bs).1.getLastD chain
  | [], _ => rfl
  | b :: bs, chain => by
    simp only [xformAll, List.getLastD_cons]
    exact xformAll_cbc_encrypt_chain bs _

theorem getD_xformAll_cbc_encrypt : ∀ (bs : List Block) (chain : Block) (j : Nat), j < bs.length →
    (xformAll .encrypt .cbc w nr chain bs).1.getD j Block.zero =
      cipher (xorBlock (bs.getD j Block.zero)
        ((chain :: (xformAll .encrypt .cbc w nr chain bs).1).getD j Block.zero)) w nr
  | _ :: _, _, 0, _ => rfl
  | _ :: bs, _, j + 1, h => getD_xformAll_cbc_encrypt bs _ j (Nat.lt_of_succ_lt_succ h)

/-- CBC decryption leaves the last input block as the chaining value (R204). -/
theorem xformAll_cbc_decrypt_chain : ∀ (bs : List Block) (chain : Block),
    (xformAll .decrypt .cbc w nr chain bs).2 = bs.getLastD chain
  | [], _ => rfl
  | b :: bs, chain => by
    simp only [xformAll, List.getLastD_cons]
    exact xformAll_cbc_decrypt_chain bs b

theorem getD_xformAll_cbc_decrypt : ∀ (bs : List Block) (chain : Block) (j : Nat), j < bs.length →
    (xformAll .decrypt .cbc w nr chain bs).1.getD j Block.zero =
      xorBlock (invCipher (bs.getD j Block.zero) w nr) ((chain :: bs).getD j Block.zero)
  | _ :: _, _, 0, _ => rfl
  | b :: bs, _, j + 1, h => getD_xformAll_cbc_decrypt bs b j (Nat.lt_of_succ_lt_succ h)

/-- One block: decrypting what encryption put out gives the block back and leaves the same chaining value. -/
theorem xform_decrypt_encrypt (cm : ChainMode) (chain b : Block) :
    xform .decrypt cm w nr chain (xform .encrypt cm w nr chain b).1 = (b, (xform .encrypt cm w nr chain b).2) := by
  cases cm with
  | ecb => simp only [xform, invCipher_cipher]
  | cbc => simp only [xform, invCipher_cipher, xorBlock_cancel]

/-- So the output of an encryption, decrypted from the same chaining value, is its input (R217). -/
theorem xformAll_decrypt_encrypt (cm : ChainMode) : ∀ (bs : List Block) (chain : Block),
    (xformAll .decrypt cm w nr chain (xformAll .encrypt cm w nr chain bs).1).1 = bs
  | [], _ => rfl
  | b :: bs, chain => by
    simp only [xformAll, xform_decrypt_encrypt]
    rw [xformAll_decrypt_encrypt cm bs]

end

/-- Settles O33. -/
theorem chainingFollowsTheMode : Obligations.ChainingFollowsTheMode := fun w nr chain bs =>
  ⟨xformAll_ecb_encrypt w nr chain bs, xformAll_ecb_decrypt w nr chain bs,
    ⟨length_xformAll .., xformAll_cbc_encrypt_chain w nr bs chain, getD_xformAll_cbc_encrypt w nr bs chain⟩,
    ⟨length_xformAll .., xformAll_cbc_decrypt_chain w nr bs chain, getD_xformAll_cbc_decrypt w nr bs chain⟩⟩

/-! ## Decrypting what a session encrypted (R217) -/

/-- A padded input is a whole number of blocks (R207). -/
theorem add_length_paddingOf_mod {pad : Pad} {n : Nat} (hn : ¬(pad = .none ∧ n % 16 ≠ 0)) :
    (n + (paddingOf pad (n % 16)).length) % 16 = 0 := by
  cases pad with
  | none => simpa [paddingOf] using hn
  | zero =>
    by_cases hr : n % 16 = 0
    · simp [paddingOf, hr]
    · rw [paddingOf, if_neg hr, List.length_replicate]
      omega
  | pkcs7 =>
    rw [paddingOf, List.length_replicate]
    omega

theorem outputBytes_blocks_endMark (bs : List Block) :
    outputBytes (bs.map .block ++ [.endMark]) = bs.flatMap blockBytes := by
  rw [outputBytes_append_blocks]
  exact List.append_nil _

theorem add_toNat_of_bufLen_zero {s : State} (h : s.bufLen = 0) (n : Nat) : s.bufLen.toNat + n = n := by
  rw [h]
  exact Nat.zero_add n

/-- The output bytes of a session of one SES.FINAL: those of the padded input's blocks, transformed. -/
theorem State.outputBytes_endSession_absorb {s : State} {x : Bytes} (hb : s.bufLen = 0) (hq : s.outq = [])
    (hn : ¬(s.pad = .none ∧ x.length % 16 ≠ 0)) :
    outputBytes (s.absorb x).endSession.outq =
      (s.transform (completeBlocks (x ++ paddingOf s.pad (x.length % 16)))).1.flatMap blockBytes := by
  have hsum := add_toNat_of_bufLen_zero hb x.length
  obtain ⟨hout, -⟩ := s.endSession_absorb x (by rwa [hsum])
  rw [hout, hsum, s.buffered_of_bufLen_zero hb, hq, List.nil_append, List.nil_append, outputBytes_blocks_endMark]

/-- A session without padding completes on whole blocks, and puts out exactly those, transformed. -/
theorem exec_sesFinal_of_blocks {l : BitVec 16} {s : State} {cs : List Block} (hp : s.phase = .active)
    (hpad : s.pad = .none) (hb : s.bufLen = 0) (hq : s.outq = []) (hwf : s.cfg.wf = true)
    (hl : l.toNat ≤ s.cfg.dbufSize) (hin : s.dbuf l.toNat = cs.flatMap blockBytes) :
    ∃ t, exec (.sesFinal l) s = .next t ∧ t.done = true ∧ t.err = s.err ∧
      outputBytes t.outq = (s.transform cs).1.flatMap blockBytes := by
  have hwhole : l.toNat % 16 = 0 := by
    rw [← s.length_dbuf l.toNat, hin, length_flatMap_blockBytes, Nat.mul_mod_right]
  have hsum := add_toNat_of_bufLen_zero hb l.toNat
  have hroom := Config.room_of_wf hwf s.bufLen.isLt hl
  refine ⟨_, exec_sesFinal_completes hp hl (by simp [hsum, hwhole]) ?_, rfl, rfl, ?_⟩
  · rw [hpad, hq, List.length_nil, padCount]
    omega
  · calc outputBytes (s.absorb (s.dbuf l.toNat)).endSession.outq
        = (s.transform (completeBlocks (s.dbuf l.toNat ++ paddingOf s.pad ((s.dbuf l.toNat).length % 16)))).1.flatMap
            blockBytes := State.outputBytes_endSession_absorb hb hq (by simp [hwhole])
      _ = (s.transform cs).1.flatMap blockBytes := by
        rw [hpad, paddingOf, List.append_nil, hin, completeBlocks_flatMap]

/-- Settles O35: the second session is given the output blocks of the first, and undoes them one by one. -/
theorem decryptSessionInvertsEncryptSession : Obligations.DecryptSessionInvertsEncryptSession := by
  intro l l' s t u hp hdir hb hq he hs ht up udir upad ub uq ue hw hmode hcm hchain hin hl' hwf
  obtain ⟨_, hrule, rfl⟩ := ruleOf_ok_of_exec_no_err hs ht
  obtain ⟨-, -, hn, -, rfl⟩ := sesFinalRule_ok hrule
  rw [add_toNat_of_bufLen_zero hb] at hn
  have hout := State.outputBytes_endSession_absorb (x := s.dbuf l.toNat) hb hq (by rwa [State.length_dbuf])
  rw [State.length_dbuf] at hout
  obtain ⟨v, hv, hdone, hverr, hvout⟩ := exec_sesFinal_of_blocks up upad ub uq hwf hl' (hin.trans hout)
  refine ⟨v, hv, hdone, hverr.trans ue, ?_⟩
  have hback (bs : List Block) : (u.transform (s.transform bs).1).1 = bs := by
    rw [State.transform, State.transform, udir, hw, hmode, hcm, hchain, hdir, xformAll_decrypt_encrypt]
  have hwhole : (s.dbuf l.toNat ++ paddingOf s.pad (l.toNat % 16)).length % 16 = 0 := by
    rw [List.length_append, State.length_dbuf]
    exact add_length_paddingOf_mod hn
  rw [hvout, hback, flatMap_completeBlocks hwhole]

/-! ## Splitting the input (R216) -/

section
variable {s t u : State}

theorem sameSession.symm (h : sameSession s t) : sameSession t s := by
  obtain ⟨hq, hc, hl, hb, hp, hd, hm, ha, hw, hs, hk, hf⟩ := h
  exact ⟨hq.symm, hc.symm, hl.symm, hb.symm, hp.symm, hd.symm, hm.symm, ha.symm, hw.symm, hs.symm, hk.symm, hf.symm⟩

theorem sameSession.trans (h : sameSession s t) (ht : sameSession t u) : sameSession s u := by
  obtain ⟨hq, hc, hl, hb, hp, hd, hm, ha, hw, hs, hk, hf⟩ := h
  rwa [sameSession, hq, hc, hl, hb, hp, hd, hm, ha, hw, hs, hk, hf]

theorem sameSession.outq_eq (h : sameSession s t) : s.outq = t.outq := by
  obtain ⟨hq, -⟩ := h
  exact hq

theorem sameSession.bufLen_eq (h : sameSession s t) : s.bufLen = t.bufLen := by
  obtain ⟨-, -, hl, -⟩ := h
  exact hl

theorem sameSession.phase_eq (h : sameSession s t) : s.phase = t.phase := by
  obtain ⟨-, -, -, -, hp, -⟩ := h
  exact hp

theorem sameSession.pad_eq (h : sameSession s t) : s.pad = t.pad := by
  obtain ⟨-, -, -, -, -, -, -, ha, -⟩ := h
  exact ha

theorem sameSession.cfg_eq (h : sameSession s t) : s.cfg = t.cfg := by
  obtain ⟨-, -, -, -, -, -, -, -, -, -, -, hf⟩ := h
  exact hf

/-- Absorbing and ending see the session only. -/
theorem sameSession.absorb (h : sameSession s t) (x : Bytes) : sameSession (s.absorb x) (t.absorb x) := by
  obtain ⟨hq, hc, -, hb, hp, hd, hm, ha, hw, hs, hk, hf⟩ := h
  have hr : s.transform = t.transform := by unfold State.transform; rw [hc, hd, hm, hw, hs]
  exact ⟨by rw [State.absorb_outq, State.absorb_outq, hq, hb, hr],
    by rw [State.absorb_chain, State.absorb_chain, hb, hr],
    by rw [State.absorb_bufLen, State.absorb_bufLen, hb],
    by rw [State.absorb_buffered_eq, State.absorb_buffered_eq, hb], hp, hd, hm, ha, hw, hs, hk, hf⟩

theorem sameSession.endSession (h : sameSession s t) : sameSession s.endSession t.endSession := by
  obtain ⟨hq, hc, -, hb, hp, hd, hm, ha, hw, hs, hk, hf⟩ := h
  have hr : s.transform = t.transform := by unfold State.transform; rw [hc, hd, hm, hw, hs]
  exact ⟨by rw [State.endSession_outq, State.endSession_outq, hq, ha, hb, hr],
    by rw [State.endSession_chain, State.endSession_chain, ha, hb, hr], rfl,
    by rw [State.endSession_buffered, State.endSession_buffered], rfl, hd, hm, ha, hw, hs, hk, hf⟩

/-- Absorbing twice is absorbing the whole. -/
theorem sameSession_absorb_append (s : State) (x y : Bytes) :
    sameSession ((s.absorb x).absorb y) (s.absorb (x ++ y)) := by
  have hd : s.buffered ++ (x ++ y) = s.buffered ++ x ++ y := (List.append_assoc ..).symm
  have hr := s.transform_append x (completeBlocks ((s.absorb x).buffered ++ y))
  rw [State.absorb_buffered_eq, ← completeBlocks_append, ← hd] at hr
  refine ⟨?_, ?_, ?_, ?_, rfl, rfl, rfl, rfl, rfl, rfl, rfl, rfl⟩
  · rw [State.absorb_outq _ y, State.absorb_outq s x, State.absorb_outq s (x ++ y), hr, State.absorb_buffered_eq]
    simp
  · rw [State.absorb_chain _ y, State.absorb_chain s (x ++ y), hr, State.absorb_buffered_eq]
  · rw [State.absorb_bufLen _ y, State.absorb_bufLen s (x ++ y), State.absorb_buffered_eq, hd, ← trailingBytes_append]
  · rw [State.absorb_buffered_eq, State.absorb_buffered_eq, State.absorb_buffered_eq, hd, ← trailingBytes_append]

/-- Two pieces, the second absorbed by a state `u` with the session the first left, against the whole from the same
session. -/
theorem sameSession.absorb_pieces {s' : State} {x y : Bytes} (hs : sameSession s s') (hu : sameSession (s.absorb x) u) :
    sameSession (u.absorb y) (s'.absorb (x ++ y)) :=
  ((hu.symm.absorb y).trans (sameSession_absorb_append s x y)).trans (hs.absorb (x ++ y))

end

/-- Settles O34: the checks of both commands, and what both leave, depend on the absorbed session only. -/
theorem splittingInputDoesNotMatter : Obligations.SplittingInputDoesNotMatter := by
  intro l l1 l2 s s' t u hl hsize hs ht hterr htu hin hs' hu
  obtain ⟨_, hrule, rfl⟩ := ruleOf_ok_of_exec_no_err ht hterr
  obtain ⟨hp, -, -, rfl⟩ := sesUpdateRule_ok_iff.1 hrule
  have hwhole : sameSession (u.absorb (u.dbuf l2.toNat)) (s'.absorb (s'.dbuf l.toNat)) :=
    hin ▸ hs.absorb_pieces htu
  have hp' : s'.phase = .active := hs.phase_eq ▸ hp
  have hsize' : l.toNat ≤ s'.cfg.dbufSize := hs.cfg_eq ▸ hsize
  refine ⟨fun v hv hverr => ?_, fun v hv hverr => ?_⟩
  · obtain ⟨_, hrule2, rfl⟩ := ruleOf_ok_of_exec_no_err hv hverr
    obtain ⟨-, -, hq, rfl⟩ := sesUpdateRule_ok_iff.1 hrule2
    have hq' : (s'.absorb (s'.dbuf l.toNat)).outq.length ≤ s'.cfg.outqDepth := by
      rw [← hwhole.outq_eq]
      exact hwhole.cfg_eq ▸ hq
    exact ⟨_, exec_of_ruleOf_ok (sesUpdateRule_ok_iff.2 ⟨hp', hsize', hq', rfl⟩), hs', hwhole⟩
  · obtain ⟨_, hrule2, rfl⟩ := ruleOf_ok_of_exec_no_err hv hverr
    obtain ⟨-, -, hn, hq, rfl⟩ := sesFinalRule_ok_iff.1 hrule2
    have hn' : ¬(s'.pad = .none ∧ (s'.absorb (s'.dbuf l.toNat)).bufLen.toNat ≠ 0) := by
      rw [← hwhole.bufLen_eq]
      exact hwhole.pad_eq ▸ hn
    have hq' : (s'.absorb (s'.dbuf l.toNat)).endSession.outq.length ≤ s'.cfg.outqDepth := by
      rw [← hwhole.endSession.outq_eq]
      exact hwhole.cfg_eq ▸ hq
    exact ⟨_, exec_of_ruleOf_ok (sesFinalRule_ok_iff.2 ⟨hp', hsize', hn', hq', rfl⟩), hs', hwhole.endSession⟩

/-! ## `PHASE` (R201) -/

/-- SES.INIT and SES.FINAL alone move `PHASE`. -/
theorem ruleOf_phase {i : Instr} {s t : State} (h : ruleOf i s = .ok t) :
    t.phase = s.phase ∨ (∃ dir chain pad, i = .sesInit dir chain pad) ∨ ∃ l, i = .sesFinal l := by
  cases i with
  | sesInit dir chain pad => exact .inr (.inl ⟨dir, chain, pad, rfl⟩)
  | sesFinal l => exact .inr (.inr ⟨l, rfl⟩)
  | nop => cases h; exact .inl rfl
  | aesKeyexp ks => obtain ⟨m, -, -, rfl⟩ := aesKeyexpRule_ok h; exact .inl rfl
  | sesUpdate l => obtain ⟨-, -, -, rfl⟩ := sesUpdateRule_ok h; exact .inl rfl
  | aesEncb l | aesDecb l => obtain ⟨-, -, rfl⟩ := blockRule_ok h; exact .inl rfl
  | gfMul l => obtain ⟨-, rfl⟩ := gfMulRule_ok h; exact .inl rfl
  | stSubbytes l | stInvsubbytes l | stShiftrows l | stInvshiftrows l | stMixcolumns l | stInvmixcolumns l =>
    obtain ⟨-, rfl⟩ := stRule_ok h
    exact .inl rfl
  | stAddroundkey r l => obtain ⟨-, -, -, rfl⟩ := stAddroundkeyRule_ok h; exact .inl rfl
  | bnLd r l => obtain ⟨-, -, rfl⟩ := bnLdRule_ok h; exact .inl rfl
  | bnSt r l => obtain ⟨-, -, -, -, rfl⟩ := bnStRule_ok h; exact .inl rfl
  | rsaSp1 f => obtain ⟨_, -, -, -, -, rfl⟩ := rsaSp1Rule_ok h; exact .inl rfl
  | rsaVp1 => obtain ⟨-, -, -, rfl⟩ := rsaVp1Rule_ok h; exact .inl rfl
  | emsaEnc a l => obtain ⟨_, _, -, -, -, -, rfl⟩ := emsaEncRule_ok h; exact .inl rfl
  | pkcsSign a f => obtain ⟨_, _, _, -, -, -, -, -, -, rfl⟩ := pkcsSignRule_ok h; exact .inl rfl
  | pkcsVerify a l => obtain ⟨_, -, -, -, rfl⟩ := pkcsVerifyRule_ok h; exact .inl rfl
  | derLenenc => obtain ⟨-, rfl⟩ := derLenencRule_ok h; exact .inl rfl
  | derLendec l => obtain ⟨_, _, -, -, rfl⟩ := derLendecRule_ok h; exact .inl rfl
  | oidEnc => obtain ⟨_, -, rfl⟩ := oidEncRule_ok h; exact .inl rfl
  | oidDec l => obtain ⟨_, _, -, -, rfl⟩ := oidDecRule_ok h; exact .inl rfl
  | algidEnc a => obtain ⟨_, _, -, -, rfl⟩ := algidEncRule_ok h; exact .inl rfl
  | oidLdalg a => obtain ⟨_, -, rfl⟩ := oidLdalgRule_ok h; exact .inl rfl

section
variable {s : State} (h : s.phase ≠ .active) (l : BitVec 16)
include h

theorem exec_sesUpdate_refuses_inactive :
    exec (.sesUpdate l) s = .next (s.raise .contractViolation (encode (.sesUpdate l))) :=
  exec_of_ruleOf_error (if_pos h)

theorem exec_sesFinal_refuses_inactive :
    exec (.sesFinal l) s = .next (s.raise .contractViolation (encode (.sesFinal l))) :=
  exec_of_ruleOf_error (if_pos h)

end

/-- Settles O36. -/
theorem phaseMachine : Obligations.PhaseMachine := by
  intro s
  refine ⟨fun dir chain pad hk hne => ?_, fun l hp => ⟨exec_sesUpdate_refuses_inactive hp l,
    exec_sesFinal_refuses_inactive hp l⟩, fun l t hp h => ?_, fun l t hp he h => ?_, fun i t h hne => ?_⟩
  · obtain ⟨p, hpad, -⟩ := exists_padOf hne
    exact ⟨_, exec_sesInit_starts hpad hk dir chain, rfl, rfl⟩
  · rcases exec_raises_or_completes h with ⟨x, rfl⟩ | ⟨u, hu, rfl⟩
    · exact hp
    · obtain ⟨-, -, -, rfl⟩ := sesUpdateRule_ok hu
      exact hp
  · rcases exec_raises_or_completes h with ⟨x, rfl⟩ | ⟨u, hu, rfl⟩
    · exact hp
    · obtain ⟨-, -, -, -, rfl⟩ := sesFinalRule_ok hu
      simp [he]
  · rcases exec_raises_or_completes h with ⟨x, rfl⟩ | ⟨u, hu, rfl⟩
    · exact absurd rfl hne
    · exact (ruleOf_phase hu).resolve_left hne

end Sys2Proof.Machine
end

section
/-! SUPPORT. Proofs about BN.LD and BN.ST, and about what the commands that store a computed number of bytes and those
that load a bignum register leave (44_bignum.md). Each command is settled by the answer of its rule: what it needs, and
the one state it then gives. -/

namespace Sys2Proof.Machine

open Sys2Proof

/-! ## What the commands that store a computed number of bytes leave (R243, 46_der.md R289, 47_pkcs1.md R318) -/

/-- An encoded identifier has two bytes in front of its value bytes: 32-bit components never need a longer length
(46_der.md R287). -/
theorem length_oidEnc {o : List Nat} {e : Bytes} (h : ∀ c ∈ o, c < 2 ^ 32) (he : oidEnc o = .ok e) :
    e.length = 2 + (oidValue (o.getD 0 0) (o.getD 1 0) (o.drop 2)).length := by
  have h73 := length_oidEnc_le h he
  match o with
  | [] | [_] => simp [oidEnc] at he
  | v0 :: v1 :: others =>
    simp only [oidEnc, check_ok, Except.ok.injEq] at he
    obtain ⟨-, -, -, -, rfl⟩ := he
    simp only [List.cons_append, List.length_cons, List.length_append] at h73
    rw [derlen_short (by omega)]
    simp only [List.cons_append, List.nil_append, List.length_cons, List.getD_cons_zero, List.getD_cons_succ,
      List.drop_succ_cons, List.drop_zero]
    omega

/-- An encoded algorithm identifier has its row's length (46_der.md R297). -/
theorem length_algidEnc {alg : BitVec 4} {row : AlgRow} {e : Bytes} (hr : algOf alg = some row)
    (he : algidEnc row = .ok e) : e.length = algidLength alg := by
  have ha : alg.toNat < 9 := Nat.lt_of_not_le fun h => by simp [algOf_none h] at hr
  obtain ⟨row', hr', -, -, he', hlen, -, -⟩ := algOf_some ha
  obtain rfl : row = row' := Option.some.inj (hr.symm.trans hr')
  obtain rfl : e = algidBytes alg := Except.ok.inj (he.symm.trans he')
  exact hlen

/-- Settles O15: each of the rules stores one string, of the stored length. -/
theorem frameOfVariableDbufWriters : Obligations.FrameOfVariableDbufWriters := by
  intro i reg l alg form s t hi h
  refine exec_frame_of_stores (fun u hu => ?_) h
  simp only [List.mem_cons, List.not_mem_nil, or_false] at hi
  rcases hi with rfl | rfl | rfl | rfl | rfl | rfl
  · obtain ⟨-, -, -, -, rfl⟩ := bnStRule_ok hu
    exact ⟨_, length_bigEndian _ _, rfl⟩
  · obtain ⟨_, em, -, -, -, hem, rfl⟩ := emsaEncRule_ok hu
    exact ⟨em, length_of_emsa_ok hem, rfl⟩
  · obtain ⟨_, _, _, -, -, -, -, -, -, rfl⟩ := pkcsSignRule_ok hu
    exact ⟨_, length_bigEndian _ _, rfl⟩
  · obtain ⟨-, rfl⟩ := derLenencRule_ok hu
    exact ⟨_, rfl, rfl⟩
  · obtain ⟨e, he, rfl⟩ := oidEncRule_ok hu
    exact ⟨e, length_oidEnc s.components_lt he, rfl⟩
  · obtain ⟨_, e, hr, he, rfl⟩ := algidEncRule_ok hu
    exact ⟨e, length_algidEnc hr he, rfl⟩

/-! ## What the commands that load a bignum register leave (R242, 45_rsa.md R262, R266) -/

/-- The commit point of a command whose rule can only load one register: an exception, or that register written. -/
theorem exec_frame_of_loads {i : Instr} {dest : BitVec 6} {s t : State}
    (hrule : ∀ u, ruleOf i s = .ok u → ∃ v, u = s.putBn dest v) (h : exec i s = .next t) :
    (∃ x : Exc, t = { s with engine := .idle, err := true, errcode := x.code, errcmd := encode i }) ∨
    (t = { s with engine := .idle, done := true, bn := t.bn } ∧
      ∀ r, r ≠ dest → t.bnVal r = s.bnVal r ∧ t.bnValid r = s.bnValid r) := by
  refine (exec_raises_or_completes h).imp_right fun ⟨u, hu, ht⟩ => ?_
  obtain ⟨v, rfl⟩ := hrule u hu
  subst ht
  refine ⟨rfl, fun r hr => ⟨?_, ?_⟩⟩
  · rw [State.bnVal_complete, State.bnVal_putBn, if_neg hr]
  · rw [State.bnValid_complete, State.bnValid_putBn, if_neg hr]

/-- Settles O17: each of the three rules loads its destination. -/
theorem frameOfBignumCommands : Obligations.FrameOfBignumCommands := by
  intro i dest reg l form s t hi h
  refine exec_frame_of_loads (fun u hu => ?_) h
  rcases hi with ⟨rfl, rfl⟩ | ⟨rfl, rfl⟩ | ⟨rfl, rfl⟩
  · exact ⟨_, (bnLdRule_ok hu).2.2⟩
  · obtain ⟨v, -, -, -, -, rfl⟩ := rsaSp1Rule_ok hu
    exact ⟨v, rfl⟩
  · exact ⟨_, (rsaVp1Rule_ok hu).2.2.2⟩

/-! ## BN.LD (R240, R242) -/

section
variable {reg : BitVec 6} {l : BitVec 16} {s : State}

/-- The state after BN.LD of a register that exists, with `L` at most `KMAX`. -/
theorem exec_bnLd_loads (hreg : bnRegExists s.cfg reg = true) (hl : l.toNat ≤ s.cfg.kmax) :
    exec (.bnLd reg l) s = .next (s.putBn reg (os2ip (s.dbuf l.toNat))).complete :=
  exec_of_ruleOf_ok <| by
    rw [ruleOf, bnLdRule, if_neg (by simp [hreg]), if_neg (Nat.not_lt.2 hl)]

theorem exec_bnLd_refuses_long (hreg : bnRegExists s.cfg reg = true) (hl : s.cfg.kmax < l.toNat) :
    exec (.bnLd reg l) s = .next (s.raise .contractViolation (encode (.bnLd reg l))) :=
  exec_of_ruleOf_error <| by
    rw [ruleOf, bnLdRule, if_neg (by simp [hreg]), if_pos hl]

end

/-- The register just loaded. -/
theorem State.bnVal_putBn_self (s : State) (r : BitVec 6) (v : Nat) : (s.putBn r v).bnVal r = v := by
  rw [State.bnVal_putBn, if_pos rfl]

theorem State.bnValid_putBn_self (s : State) (r : BitVec 6) (v : Nat) : (s.putBn r v).bnValid r = true := by
  rw [State.bnValid_putBn, if_pos rfl]

/-- The number BN.LD reads, as the sum R240 gives. -/
theorem State.os2ip_dbuf_eq_sum (s : State) (n : Nat) :
    os2ip (s.dbuf n) = ((List.range n).map fun i => (s.dbufByte i).toNat * 256 ^ (n - 1 - i)).sum := by
  rw [os2ip_eq_sum, State.length_dbuf]
  congr 1
  refine List.map_congr_left fun i hi => ?_
  rw [State.getD_dbuf s (List.mem_range.1 hi)]

/-- Settles O39, by the one check on `L`. -/
theorem bnLdLoads : Obligations.BnLdLoads := by
  intro reg l s hreg
  refine ⟨fun hl => ⟨_, exec_bnLd_loads hreg hl, rfl, rfl, ?_, ?_⟩, exec_bnLd_refuses_long hreg⟩
  · rw [State.bnVal_complete, State.bnVal_putBn_self, State.os2ip_dbuf_eq_sum]
  · rw [State.bnValid_complete, State.bnValid_putBn_self]

/-! ## BN.ST (R241, R243) -/

theorem bnRegStorable_of_mem {reg : BitVec 6} (h : reg ∈ [0, 1, 8, 9]) : bnRegStorable reg = true := by
  revert reg
  decide

theorem i2osp_of_lt {v l : Nat} (h : v < 256 ^ l) : i2osp v l = .ok (bigEndian v l) := by
  rw [i2osp, if_neg (Nat.not_le.2 h)]

theorem i2osp_of_le {v l : Nat} (h : 256 ^ l ≤ v) : i2osp v l = .error .integerTooLarge := by
  rw [i2osp, if_pos h]

section
variable {reg : BitVec 6} {l : BitVec 16} {s : State} (hreg : reg ∈ [0, 1, 8, 9])
include hreg

theorem exec_bnSt_refuses_long (hl : s.cfg.dbufSize < l.toNat) :
    exec (.bnSt reg l) s = .next (s.raise .contractViolation (encode (.bnSt reg l))) :=
  exec_of_ruleOf_error <| by
    rw [ruleOf, bnStRule, if_neg (by simp [bnRegStorable_of_mem hreg]), if_pos hl]

theorem exec_bnSt_refuses_unloaded (hl : l.toNat ≤ s.cfg.dbufSize) (hv : s.bnValid reg = false) :
    exec (.bnSt reg l) s = .next (s.raise .invalidKey (encode (.bnSt reg l))) :=
  exec_of_ruleOf_error <| by
    rw [ruleOf, bnStRule, if_neg (by simp [bnRegStorable_of_mem hreg]), if_neg (Nat.not_lt.2 hl), if_pos hv]

/-- Past the checks on `L` and on the valid bit, I2OSP decides. -/
theorem ruleOf_bnSt (hl : l.toNat ≤ s.cfg.dbufSize) (hv : s.bnValid reg = true) :
    ruleOf (.bnSt reg l) s = (i2osp (s.bnVal reg) l.toNat).map s.putDbuf := by
  rw [ruleOf, bnStRule, if_neg (by simp [bnRegStorable_of_mem hreg]), if_neg (Nat.not_lt.2 hl), if_neg (by simp [hv])]

theorem exec_bnSt_refuses_large (hl : l.toNat ≤ s.cfg.dbufSize) (hv : s.bnValid reg = true)
    (hb : 256 ^ l.toNat ≤ s.bnVal reg) :
    exec (.bnSt reg l) s = .next (s.raise .integerTooLarge (encode (.bnSt reg l))) :=
  exec_of_ruleOf_error <| by rw [ruleOf_bnSt hreg hl hv, i2osp_of_le hb, Except.map]

/-- The state after BN.ST of a loaded register whose value fits. -/
theorem exec_bnSt_stores (hl : l.toNat ≤ s.cfg.dbufSize) (hv : s.bnValid reg = true)
    (hb : s.bnVal reg < 256 ^ l.toNat) :
    exec (.bnSt reg l) s = .next (s.putDbuf (bigEndian (s.bnVal reg) l.toNat)).complete :=
  exec_of_ruleOf_ok <| by rw [ruleOf_bnSt hreg hl hv, i2osp_of_lt hb, Except.map]

end

/-- Settles O40, by the three checks in their order. -/
theorem bnStStores : Obligations.BnStStores := by
  intro reg l s hmem hreg
  refine ⟨fun hl hv hb => ⟨_, exec_bnSt_stores hreg hl hv hb, rfl, rfl, ?_, fun i hi => ?_⟩,
    exec_bnSt_refuses_large hreg, exec_bnSt_refuses_unloaded hreg, exec_bnSt_refuses_long hreg⟩
  · show BitVec.ofNat 16 (bigEndian (s.bnVal reg) l.toNat).length = l
    rw [length_bigEndian, BitVec.ofNat_toNat, BitVec.setWidth_eq]
  · rw [State.dbufByte_complete, State.dbufByte_putDbuf hmem _ (by rwa [length_bigEndian]), getD_bigEndian _ _ i hi,
      BitVec.toNat_ofNat]

/-! ## OS2IP and I2OSP undo each other (R239) -/

theorem i2osp_os2ip (x : Bytes) : i2osp (os2ip x) x.length = .ok x := by
  rw [i2osp_of_lt (os2ip_lt x), bigEndian_os2ip]

theorem os2ip_of_i2osp_ok {v l : Nat} {x : Bytes} (h : i2osp v l = .ok x) : os2ip x = v := by
  obtain ⟨hv, rfl⟩ := i2osp_ok h
  rw [os2ip_bigEndian, Nat.mod_eq_of_lt hv]

/-- `N`, `E`, `M` and `S` exist in every instance (10_state.md R21). -/
theorem bnRegExists_of_mem {reg : BitVec 6} (h : reg ∈ [0, 1, 8, 9]) (cfg : Config) : bnRegExists cfg reg = true := by
  have h9 : reg.toNat ≤ 9 := by
    revert reg
    decide
  simp [bnRegExists, h9]

/-- BN.ST of as many bytes as a string has, of a register that holds the string's number, stores the string. -/
theorem exec_bnSt_stores_string {reg : BitVec 6} {l : BitVec 16} {s : State} {x : Bytes} (hreg : reg ∈ [0, 1, 8, 9])
    (hx : x.length = l.toNat) (hl : l.toNat ≤ s.cfg.dbufSize) (hv : s.bnValid reg = true)
    (hval : s.bnVal reg = os2ip x) : exec (.bnSt reg l) s = .next (s.putDbuf x).complete := by
  have hb : s.bnVal reg < 256 ^ l.toNat := by
    rw [hval, ← hx]
    exact os2ip_lt x
  rw [exec_bnSt_stores hreg hl hv hb, hval, ← hx, bigEndian_os2ip]

/-- Settles O41: BN.LD leaves the number of the `L` bytes in a valid register, and `KMAX` bytes fit in `DBUF`. -/
theorem loadThenStoreReturnsTheBytes : Obligations.LoadThenStoreReturnsTheBytes := by
  refine ⟨i2osp_os2ip, fun _ _ _ => os2ip_of_i2osp_ok, fun reg l s hmem hcfg hreg hl => ?_⟩
  obtain ⟨-, -, hk, -⟩ := (Config.wf_iff s.cfg).1 hcfg
  refine ⟨_, _, exec_bnLd_loads (bnRegExists_of_mem hreg s.cfg) hl,
    exec_bnSt_stores_string hreg (s.length_dbuf l.toNat) (hl.trans hk) (s.bnValid_putBn_self reg _)
      (s.bnVal_putBn_self reg _), rfl, rfl, ?_⟩
  have hback := State.dbuf_putDbuf (s := (s.putBn reg (os2ip (s.dbuf l.toNat))).complete) hmem (s.dbuf l.toNat)
  rwa [State.length_dbuf] at hback

end Sys2Proof.Machine
end

section
/-! SUPPORT. Proofs about the RSA key checks, primitives and commands (45_rsa.md). Each command that completes leaves
one state, given by the value of its primitive; Garner's recombination and the exponents that undo each other are facts
about numbers, for any representative. -/

namespace Sys2Proof.Machine

open Sys2Proof

/-! ## The key checks (R264) -/

theorem State.keycheckPub_iff (s : State) :
    s.keycheckPub = true ↔ s.bnValid regN = false ∨ s.bnValid regE = false ∨ s.bnVal regN = 0 := by
  simp [State.keycheckPub, or_assoc]

theorem State.keycheckPair_iff (s : State) :
    s.keycheckPair = true ↔ s.bnValid regN = false ∨ s.bnValid regD = false ∨ s.bnVal regN = 0 := by
  simp [State.keycheckPair, or_assoc]

/-- The registers of the MultiPrime form beside the triplets are `N` and the five CRT registers. -/
theorem mem_crtRegs_iff :
    ∀ r : BitVec 6, r ∈ [regN, regP, regQ, regDP, regDQ, regQINV] ↔ r = 0 ∨ (3 ≤ r ∧ r ≤ 7) := by
  decide

/-- Some CRT register is not loaded. -/
theorem State.any_crtRegs_iff (s : State) :
    [regN, regP, regQ, regDP, regDQ, regQINV].any (fun r => !s.bnValid r) = true ↔
      ∃ r : BitVec 6, (r = 0 ∨ (3 ≤ r ∧ r ≤ 7)) ∧ s.bnValid r = false := by
  simp only [List.any_eq_true, mem_crtRegs_iff, Bool.not_eq_true']

theorem State.keycheckMp_iff (s : State) :
    s.keycheckMp = true ↔
      s.nap.toNat > s.cfg.apMax ∨
      (∃ r : BitVec 6, (r = 0 ∨ (3 ≤ r ∧ r ≤ 7)) ∧ s.bnValid r = false) ∨
      (∃ j, j < s.nap.toNat ∧
        (s.bnValid (regR j) = false ∨ s.bnValid (regDA j) = false ∨ s.bnValid (regT j) = false)) ∨
      s.bnVal regN = 0 ∨ s.bnVal regP = 0 ∨ s.bnVal regQ = 0 ∨
      (∃ j, j < s.nap.toNat ∧ s.bnVal (regR j) = 0) := by
  simp only [State.keycheckMp, Bool.or_eq_true, s.any_crtRegs_iff, decide_eq_true_eq, List.any_eq_true, List.mem_range,
    Bool.not_eq_true', beq_iff_eq, or_assoc]

/-- Settles O13: a check's disjuncts are the registers R264 lists. -/
theorem keyChecksReadTheirRegisters : Obligations.KeyChecksReadTheirRegisters :=
  fun s => ⟨s.keycheckPub_iff, s.keycheckPair_iff, s.keycheckMp_iff⟩

/-- The Pair check passes exactly a loaded `N`, not 0, with a loaded `D`. -/
theorem State.keycheckPair_eq_false_iff (s : State) :
    s.keycheckPair = false ↔ s.bnValid regN = true ∧ s.bnValid regD = true ∧ s.bnVal regN ≠ 0 := by
  simp [← Bool.not_eq_true, s.keycheckPair_iff]

/-- The public check passes exactly a loaded `N`, not 0, with a loaded `E`. -/
theorem State.keycheckPub_eq_false_iff (s : State) :
    s.keycheckPub = false ↔ s.bnValid regN = true ∧ s.bnValid regE = true ∧ s.bnVal regN ≠ 0 := by
  simp [← Bool.not_eq_true, s.keycheckPub_iff]

/-! ## The primitives and the commands (R261, R262, R265, R266) -/

section
variable {s : State}

theorem State.rsasp1_pair {m : Nat} (hm : m < s.bnVal regN) :
    s.rsasp1 .pair m = .ok (m ^ s.bnVal regD % s.bnVal regN) := by
  rw [State.rsasp1, rsasp1Pair, if_neg (Nat.not_le.2 hm), modexp_eq]

theorem State.rsasp1_multiPrime {m : Nat} (hm : m < s.bnVal regN) :
    s.rsasp1 .multiPrime m = .ok (s.multiPrimeValue m) := by
  rw [State.rsasp1, rsasp1Mp, if_neg (Nat.not_le.2 hm), State.multiPrimeValue]

/-- The state after RSA.SP1 of a representative that the primitive signs. Only the MultiPrime form asks that the value
fit a register. -/
theorem exec_rsaSp1_signs {form : KeyForm} {v : Nat} (hkey : s.keycheck form = false) (hvalid : s.bnValid regM = true)
    (hv : s.rsasp1 form (s.bnVal regM) = .ok v) (hfits : form = .multiPrime → v < 2 ^ (8 * s.cfg.kmax)) :
    exec (.rsaSp1 form) s = .next (s.putBn regS v).complete :=
  exec_of_ruleOf_ok <| by
    have hlast : ¬(form = .multiPrime ∧ v ≥ 2 ^ (8 * s.cfg.kmax)) := fun ⟨hf, hge⟩ => (hfits hf).not_ge hge
    simp only [ruleOf, rsaSp1Rule, hkey, hvalid, hv, if_neg hlast, Bool.not_true, Bool.or_false, Bool.false_eq_true,
      if_false]

theorem exec_rsaSp1_pair (hkey : s.keycheckPair = false) (hvalid : s.bnValid regM = true)
    (hm : s.bnVal regM < s.bnVal regN) :
    exec (.rsaSp1 .pair) s = .next (s.putBn regS (s.bnVal regM ^ s.bnVal regD % s.bnVal regN)).complete :=
  exec_rsaSp1_signs hkey hvalid (State.rsasp1_pair hm) nofun

theorem exec_rsaSp1_multiPrime (hkey : s.keycheckMp = false) (hvalid : s.bnValid regM = true)
    (hm : s.bnVal regM < s.bnVal regN) (hfits : s.multiPrimeValue (s.bnVal regM) < 2 ^ (8 * s.cfg.kmax)) :
    exec (.rsaSp1 .multiPrime) s = .next (s.putBn regS (s.multiPrimeValue (s.bnVal regM))).complete :=
  exec_rsaSp1_signs hkey hvalid (State.rsasp1_multiPrime hm) fun _ => hfits

/-- The state after RSA.VP1 of a signature in range. -/
theorem exec_rsaVp1_verifies (hkey : s.keycheckPub = false) (hvalid : s.bnValid regS = true)
    (hs : s.bnVal regS < s.bnVal regN) :
    exec .rsaVp1 s = .next (s.putBn regM (s.bnVal regS ^ s.bnVal regE % s.bnVal regN)).complete :=
  exec_of_ruleOf_ok <| by
    simp only [ruleOf, rsaVp1Rule, rsavp1, hkey, hvalid, if_neg (Nat.not_le.2 hs), modexp_eq, Except.map, Bool.not_true,
      Bool.or_false, Bool.false_eq_true, if_false]

end

/-- Settles O42, by the one state each command leaves. -/
theorem rsaPairAndPublicPrimitives : Obligations.RsaPairAndPublicPrimitives := by
  intro s hN h0
  refine ⟨fun hD hM hlt => ?_, fun hE hS hlt => ?_⟩
  · have hkey := s.keycheckPair_eq_false_iff.2 ⟨hN, hD, h0⟩
    exact ⟨_, exec_rsaSp1_pair hkey hM hlt, rfl, rfl, s.bnValid_putBn_self _ _, s.bnVal_putBn_self _ _⟩
  · have hkey := s.keycheckPub_eq_false_iff.2 ⟨hN, hE, h0⟩
    exact ⟨_, exec_rsaVp1_verifies hkey hS hlt, rfl, rfl, s.bnValid_putBn_self _ _, s.bnVal_putBn_self _ _⟩

/-! ## The recombination as a fold (R263) -/

/-- One round of R263's loop on (`R`, `prev`, `s`), for the triplet (r, d, t). -/
def garnerStep (m : Nat) (a x : Nat × Nat × Nat) : Nat × Nat × Nat :=
  (a.1 * a.2.1, x.1, a.2.2 + a.1 * a.2.1 * ((((m ^ x.2.1 % x.1 : Nat) : Int) - a.2.2) * x.2.2 % x.1).toNat)

theorem garnerLoop_eq_foldl (m : Nat) (more : List (Nat × Nat × Nat)) : ∀ bigR prev s : Nat,
    garnerLoop m more bigR prev s = (more.foldl (garnerStep m) (bigR, prev, s)).2.2 := by
  induction more with
  | nil => exact fun _ _ _ => rfl
  | cons x more ih =>
    intro bigR prev s
    rw [garnerLoop, List.foldl_cons, ih, modexp_eq]
    rfl

/-- Settles O43: the loop is the fold, and RSA.SP1 leaves its value in `S`. -/
theorem multiPrimeRecombination : Obligations.MultiPrimeRecombination := by
  refine ⟨fun p q dP dQ qInv m more => ?_, fun s hkey hM hlt hfits => ?_⟩
  · rw [rsasp1MpValue, garnerLoop_eq_foldl, modexp_eq, modexp_eq]
    rfl
  · exact ⟨_, exec_rsaSp1_multiPrime hkey hM hlt hfits, rfl, rfl, s.bnValid_putBn_self _ _, s.bnVal_putBn_self _ _⟩

/-! ## The MultiPrime value of a consistent key (R263, R268) -/

/-- One step of Garner's recombination: from a number's residue modulo `bigR` and its residue modulo a new r, its
residue modulo the product. -/
theorem garner_combines {x r bigR t : Nat} (hr : 0 < r) (hR : 0 < bigR) (hco : Nat.Coprime r bigR)
    (ht : t * bigR % r = 1 % r) :
    x % bigR + bigR * subMulMod (x % r) (x % bigR) t r = x % (bigR * r) := by
  obtain ⟨hlt, hmodR, hmodr⟩ := recombine (x := x % r) hr ht (Nat.mod_lt x hR)
  have hmod := (Nat.modEq_and_modEq_iff_modEq_mul hco.symm).1
    ⟨hmodR.trans (Nat.mod_modEq x bigR), hmodr.trans (Nat.mod_modEq x r)⟩
  rw [← hmod, Nat.mod_eq_of_lt hlt]

/-- An inverse modulo a prime, in the form the recombination takes it. -/
theorem mod_eq_one_mod {a r : Nat} (hr : r.Prime) (h : a % r = 1) : a % r = 1 % r := by
  rw [h, Nat.mod_eq_of_lt hr.one_lt]

/-- An exponent reduced modulo r - 1 and not 0 gives the residue of the full one. -/
theorem modexp_reduced {r d dr : Nat} (hr : r.Prime) (hdr : dr = d % (r - 1)) (h0 : dr ≠ 0) (m : Nat) :
    modexp m dr r = m ^ d % r := by
  subst hdr
  rw [modexp_eq, pow_mod_pred_prime hr m d h0]

/-- The loop keeps: `s` is the power modulo the product of the primes so far. -/
theorem garnerLoop_consistent {d : Nat} (m : Nat) (more : List (Nat × Nat × Nat)) : ∀ bigR prev : Nat,
    0 < bigR * prev → consistentTriplets d (bigR * prev) more →
      garnerLoop m more bigR prev (m ^ d % (bigR * prev)) = m ^ d % primesProduct (bigR * prev) more := by
  induction more with
  | nil => exact fun _ _ _ _ => rfl
  | cons x more ih =>
    obtain ⟨r, dr, t⟩ := x
    rintro bigR prev hR ⟨hr, hco, hdr, hdr0, ht, hmore⟩
    rw [garnerLoop, modexp_reduced hr hdr hdr0, garner_combines hr.pos hR hco (mod_eq_one_mod hr ht)]
    exact ih (bigR * prev) r (Nat.mul_pos hR hr.pos) hmore

/-- The MultiPrime value of a consistent key is the power modulo `N`, for every representative. -/
theorem State.ConsistentMultiPrime.multiPrimeValue_eq {s : State} {d : Nat} (h : s.ConsistentMultiPrime d) (m : Nat) :
    s.multiPrimeValue m = m ^ d % s.bnVal regN := by
  obtain ⟨⟨hp, hq, hne⟩, ⟨hdP, hdP0⟩, ⟨hdQ, hdQ0⟩, hinv, hmore, hN⟩ := h
  have hfirst := garner_combines (x := m ^ d) hp.pos hq.pos ((Nat.coprime_primes hp hq).2 hne)
    (mod_eq_one_mod hp hinv)
  rw [State.multiPrimeValue, rsasp1MpValue, modexp_reduced hp hdP hdP0, modexp_reduced hq hdQ hdQ0, hfirst,
    Nat.mul_comm (s.bnVal regQ), garnerLoop_consistent m s.triplets _ _ (Nat.mul_pos hp.pos hq.pos) hmore, hN]

/-- Settles O44: both forms load `S` with the same value, which is below `N` and so fits. -/
theorem crtSignatureEqualsPairSignature : Obligations.CrtSignatureEqualsPairSignature := by
  intro s hmp hpair hM hcons hlt hN
  have hval := hcons.multiPrimeValue_eq (s.bnVal regM)
  have hfits : s.multiPrimeValue (s.bnVal regM) < 2 ^ (8 * s.cfg.kmax) := by
    rw [hval]
    exact (Nat.mod_lt _ (Nat.zero_lt_of_lt hlt)).trans hN
  refine ⟨_, ?_, exec_rsaSp1_pair hpair hM hlt, rfl, s.bnVal_putBn_self _ _⟩
  rw [exec_rsaSp1_multiPrime hmp hM hlt hfits, hval]

/-! ## Exponents that undo each other (R268) -/

/-- Fermat's little theorem for every base: an exponent above 0 that is 1 modulo r - 1 keeps residues modulo r. For
r = 2 every exponent is 1 modulo r - 1, so that it is above 0 has to be said. -/
theorem pow_modEq_self {r k : Nat} (hr : r.Prime) (hk : k ≠ 0) (h : k ≡ 1 [MOD r - 1]) (m : Nat) :
    m ^ k ≡ m [MOD r] := by
  have : Fact r.Prime := ⟨hr⟩
  rw [← ZMod.natCast_eq_natCast_iff, Nat.cast_pow]
  by_cases hm : (m : ZMod r) = 0
  · rw [hm, zero_pow hk]
  · rw [pow_eq_pow_of_modEq h (ZMod.pow_card_sub_one_eq_one hm), pow_one]

/-- Without a square factor in n, numbers that agree modulo each prime of n agree modulo n. -/
theorem modEq_of_modEq_primes {n a b : Nat} (hn : Squarefree n) (h : ∀ r, r.Prime → r ∣ n → a ≡ b [MOD r]) :
    a ≡ b [MOD n] := by
  rw [Nat.modEq_iff_dvd, Int.natCast_dvd, ← Nat.prod_primeFactors_of_squarefree hn]
  refine Finset.prod_primes_dvd _ (fun r hr => (Nat.prime_of_mem_primeFactors hr).prime) fun r hr => ?_
  have hmod := h r (Nat.prime_of_mem_primeFactors hr) (Nat.dvd_of_mem_primeFactors hr)
  rwa [Nat.modEq_iff_dvd, Int.natCast_dvd] at hmod

/-- A power with one of two matching exponents, raised to the other, is the representative again. -/
theorem MatchingExponents.pow_pow_mod {n e d m : Nat} (h : MatchingExponents n e d) (hm : m < n) :
    (m ^ d % n) ^ e % n = m := by
  have hback : m ^ (e * d) ≡ m [MOD n] := modEq_of_modEq_primes h.squarefree fun r hr hdvd =>
    pow_modEq_self hr (Nat.ne_of_gt h.positive) (h.inverse r hr hdvd) m
  calc (m ^ d % n) ^ e % n = m ^ (e * d) % n := by rw [← Nat.pow_mod, ← Nat.pow_mul, Nat.mul_comm]
    _ = m := by rw [hback, Nat.mod_eq_of_lt hm]

/-- The public check does not look at `S`. -/
theorem State.keycheckPub_putBn_regS (s : State) (v : Nat) : (s.putBn regS v).keycheckPub = s.keycheckPub := by
  rw [State.keycheckPub, State.bnValid_putBn, State.bnValid_putBn, State.bnVal_putBn, if_neg (by decide),
    if_neg (by decide), if_neg (by decide), State.keycheckPub]

/-- Settles O45: RSA.SP1 leaves `N` and `E` as they were, and the exponents undo each other. -/
theorem verificationInvertsSignature : Obligations.VerificationInvertsSignature := by
  intro s hpub hpair hM hexp hlt
  have hsig := Nat.mod_lt (s.bnVal regM ^ s.bnVal regD) (Nat.zero_lt_of_lt hlt)
  have hsign := exec_rsaSp1_pair hpair hM hlt
  generalize hv : s.bnVal regM ^ s.bnVal regD % s.bnVal regN = v at hsig hsign
  have hN : (s.putBn regS v).complete.bnVal regN = s.bnVal regN := s.bnVal_putBn regS regN v
  have hE : (s.putBn regS v).complete.bnVal regE = s.bnVal regE := s.bnVal_putBn regS regE v
  have hS : (s.putBn regS v).complete.bnVal regS = v := s.bnVal_putBn_self regS v
  have hkey : (s.putBn regS v).complete.keycheckPub = false := (s.keycheckPub_putBn_regS v).trans hpub
  have hrange : (s.putBn regS v).complete.bnVal regS < (s.putBn regS v).complete.bnVal regN := by rwa [hS, hN]
  refine ⟨_, _, hsign, exec_rsaVp1_verifies hkey (s.bnValid_putBn_self regS v) hrange, rfl, rfl, ?_⟩
  rw [State.bnVal_complete, State.bnVal_putBn_self, hS, hE, hN, ← hv, hexp.pow_pow_mod hlt]

end Sys2Proof.Machine
end

section
/-! SUPPORT. Proofs about DER lengths (46_der.md section 1). The long form's decoder is said once, by the value of the
count byte and of the bytes behind it. -/

namespace Sys2Proof.Machine

open Sys2Proof

/-! ## The two parts of a byte (R284, R286, R291) -/

/-- A value that fits a byte. -/
theorem toNat_ofNat_byte {d : Nat} (h : d < 256) : (BitVec.ofNat 8 d : Byte).toNat = d := by
  rw [BitVec.toNat_ofNat, Nat.mod_eq_of_lt h]

/-- A byte with its top bit set in front of a seven-bit value. -/
theorem toNat_or_topBit {d : Nat} (h : d < 128) : (BitVec.ofNat 8 d ||| 0x80#8).toNat = 128 + d := by
  have hor := Nat.two_pow_add_eq_or_of_lt (i := 7) h 1
  rw [BitVec.toNat_or, toNat_ofNat_byte (by omega), Nat.or_comm]
  exact hor.symm

/-- A byte at 128 or above is its top bit and its low seven bits. -/
theorem ofNat_low7_or_topBit {x : Byte} (h : 128 ≤ x.toNat) : BitVec.ofNat 8 (x.toNat % 128) ||| 0x80#8 = x := by
  refine BitVec.eq_of_toNat_eq ((toNat_or_topBit (Nat.mod_lt _ (by norm_num))).trans ?_)
  have := x.isLt
  omega

theorem toNat_and_low7 (x : Byte) : (x &&& 0x7F#8).toNat = x.toNat % 128 := by
  rw [BitVec.toNat_and]
  exact Nat.and_two_pow_sub_one_eq_mod x.toNat 7

theorem getLsbD_seven_iff (x : Byte) : x.getLsbD 7 = true ↔ 128 ≤ x.toNat := by
  have hmsb : x.getLsbD 7 = decide (128 ≤ x.toNat) := x.msb_eq_getLsbD_last.symm.trans x.msb_eq_decide
  rw [hmsb, decide_eq_true_iff]

/-! ## The bytes of a value (R281) -/

theorem derlen_long {v : Nat} (h : 128 ≤ v) :
    derlen v = (BitVec.ofNat 8 (bytelen v) ||| 0x80#8) :: bigEndian v (bytelen v) := by
  rw [derlen, if_neg (by omega), BitVec.or_comm]

/-- A value below 2^31 takes one to four bytes (R281). -/
theorem bytelen_bounds {v : Nat} (h : 128 ≤ v) (hv : v < 2 ^ 31) : 1 ≤ bytelen v ∧ bytelen v ≤ 4 :=
  ⟨bytelen_pos (by omega), bytelen_le (hv.trans (by norm_num))⟩

/-- The count is the least: the first byte of the value is not zero. -/
theorem headD_bigEndian_ne_zero {v : Nat} (h : v ≠ 0) (y : Bytes) :
    (bigEndian v (bytelen v) ++ y).headD 0 ≠ 0 := by
  obtain ⟨n, hn⟩ : ∃ n, bytelen v = n + 1 := ⟨bytelen v - 1, by have := bytelen_pos h; omega⟩
  have hlo := pow_pred_bytelen_le h
  have hhi := lt_pow_bytelen v
  rw [hn] at hlo hhi
  have hpos : 0 < v / 256 ^ n := Nat.div_pos hlo (by positivity)
  have hlt : v / 256 ^ n < 256 := Nat.div_lt_of_lt_mul (by rwa [← Nat.pow_succ])
  rw [hn, bigEndian, List.cons_append, List.headD_cons]
  intro h0
  exact hpos.ne' ((toNat_ofNat_byte hlt).symm.trans (congrArg BitVec.toNat h0))

/-- A string that does not begin with a zero byte is as long as its value's bytes. -/
theorem bytelen_os2ip {x : Bytes} (h : x.headD 0 ≠ 0) : bytelen (os2ip x) = x.length := by
  refine Nat.le_antisymm (bytelen_le (os2ip_lt x)) (Nat.le_of_not_lt fun hlt => ?_)
  match x with
  | [] => exact h rfl
  | b :: y =>
    have hb : b.toNat ≠ 0 := fun h0 => h (BitVec.eq_of_toNat_eq h0)
    have hle := (bytelen_le_iff _ _).1 (Nat.le_of_lt_succ hlt)
    rw [os2ip_cons] at hle
    have := Nat.le_mul_of_pos_left (256 ^ y.length) (Nat.pos_of_ne_zero hb)
    omega

/-! ## What DER length decoding accepts (R284) -/

theorem derlenDec_short {x0 : Byte} (h : x0.toNat < 128) (rest : Bytes) :
    derlenDec (x0 :: rest) = .ok (x0.toNat, 1) := if_pos h

/-- The long form: the checks of R284 in their order. -/
theorem derlenDec_long_ok_iff {x0 : Byte} (h : 128 ≤ x0.toNat) {rest : Bytes} {v c : Nat} :
    derlenDec (x0 :: rest) = .ok (v, c) ↔
      (1 ≤ x0.toNat % 128 ∧ x0.toNat % 128 ≤ 4) ∧ x0.toNat % 128 ≤ rest.length ∧ rest.headD 0 ≠ 0 ∧
        128 ≤ v ∧ v < 2 ^ 31 ∧ v = os2ip (rest.take (x0.toNat % 128)) ∧ c = 1 + x0.toNat % 128 := by
  simp only [derlenDec, if_neg (Nat.not_lt.2 h), toNat_and_low7, check_ok, Except.ok.injEq, Prod.mk.injEq]
  constructor
  · rintro ⟨hc, hl, h0, hlo, hhi, rfl, rfl⟩
    exact ⟨by omega, Nat.le_of_not_lt hl, h0, Nat.le_of_not_lt hlo, Nat.lt_of_not_ge hhi, rfl, rfl⟩
  · rintro ⟨hc, hl, h0, hlo, hhi, rfl, rfl⟩
    exact ⟨by omega, Nat.not_lt.2 hl, h0, Nat.not_lt.2 hlo, Nat.not_le.2 hhi, rfl, rfl⟩

/-- Decoding undoes encoding, whatever follows. -/
theorem derlenDec_derlen_append {v : Nat} (hv : v < 2 ^ 31) (y : Bytes) :
    derlenDec (derlen v ++ y) = .ok (v, (derlen v).length) := by
  by_cases h : v < 128
  · have hbyte : (BitVec.ofNat 8 v).toNat = v := toNat_ofNat_byte (by omega)
    rw [derlen_short h, List.singleton_append, derlenDec_short (by omega), hbyte, List.length_singleton]
  · have h128 := Nat.le_of_not_lt h
    obtain ⟨h1, h4⟩ := bytelen_bounds h128 hv
    have hx0 : (BitVec.ofNat 8 (bytelen v) ||| 0x80#8).toNat = 128 + bytelen v := toNat_or_topBit (by omega)
    have hcount : (128 + bytelen v) % 128 = bytelen v := by omega
    rw [derlen_long h128, List.cons_append, derlenDec_long_ok_iff (by omega), hx0, hcount]
    refine ⟨⟨h1, h4⟩, by simp, headD_bigEndian_ne_zero (by omega) y, h128, hv, ?_, ?_⟩
    · rw [List.take_left' (length_bigEndian v _), os2ip_bigEndian, Nat.mod_eq_of_lt (lt_pow_bytelen v)]
    · rw [List.length_cons, length_bigEndian, Nat.add_comm]

/-- Whatever decodes starts with the encoding of its value. -/
theorem take_of_derlenDec_ok {x : Bytes} {v c : Nat} (h : derlenDec x = .ok (v, c)) :
    v < 2 ^ 31 ∧ x.take c = derlen v := by
  match x with
  | [] => cases h
  | x0 :: rest =>
    by_cases h0 : x0.toNat < 128
    · rw [derlenDec_short h0] at h
      cases h
      rw [derlen_short h0, BitVec.ofNat_toNat, BitVec.setWidth_eq]
      exact ⟨h0.trans (by norm_num), rfl⟩
    · obtain ⟨⟨h1, h4⟩, hl, hne, hlo, hhi, hv, rfl⟩ := (derlenDec_long_ok_iff (Nat.le_of_not_lt h0)).1 h
      refine ⟨hhi, ?_⟩
      have hx0 := ofNat_low7_or_topBit (Nat.le_of_not_lt h0)
      generalize x0.toNat % 128 = count at *
      have hlen : (rest.take count).length = count := by rw [List.length_take, Nat.min_eq_left hl]
      have hhead : (rest.take count).headD 0 ≠ 0 := by
        match rest, count, h1 with
        | [], _, _ => simp at hne
        | b :: r, n + 1, _ => exact hne
      have hbytes : bytelen v = count := by rw [hv, bytelen_os2ip hhead, hlen]
      have hval : bigEndian v count = rest.take count := by
        have := bigEndian_os2ip (rest.take count)
        rwa [← hv, hlen] at this
      rw [derlen_long hlo, hbytes, hx0, hval, Nat.add_comm, List.take_succ_cons]

/-- Settles O47: by the two forms of a length. -/
theorem derLengthsAreExactInverses : Obligations.DerLengthsAreExactInverses :=
  ⟨fun _ y hv => derlenDec_derlen_append hv y, fun _ _ _ => take_of_derlenDec_ok, fun _ _ => derlenDec_error⟩

/-! ## The commands (R283, R285) -/

/-- The commit point of a command whose rule stores a string: it completes, with the string's length in `DLEN` and the
string in `DBUF`. -/
theorem exec_stores_string {i : Instr} {s : State} {x : Bytes} (hmem : Memory.wf s.mem = true)
    (hrule : ruleOf i s = .ok (s.putDbuf x)) (hx : x.length < 2 ^ 16) :
    ∃ t, exec i s = .next t ∧ t.done = true ∧ t.err = s.err ∧ t.dlen.toNat = x.length ∧ t.dbuf x.length = x :=
  ⟨_, exec_of_ruleOf_ok hrule, rfl, rfl, by simpa using hx, State.dbuf_putDbuf hmem x⟩

theorem ruleOf_derLenenc {s : State} (h : s.arg0.toNat < 2 ^ 31) :
    ruleOf .derLenenc s = .ok (s.putDbuf (derlen s.arg0.toNat)) :=
  if_neg (Nat.not_le.2 h)

theorem exec_derLenenc_stores {s : State} (hmem : Memory.wf s.mem = true) (h : s.arg0.toNat < 2 ^ 31) :
    ∃ t, exec .derLenenc s = .next t ∧ t.done = true ∧ t.err = s.err ∧
      t.dlen.toNat = (derlen s.arg0.toNat).length ∧
      ∀ i, i < (derlen s.arg0.toNat).length → t.dbufByte i = (derlen s.arg0.toNat).getD i 0 := by
  have hlen := length_derlen_le h
  obtain ⟨t, ht, hdone, herr, hdlen, hdbuf⟩ := exec_stores_string hmem (ruleOf_derLenenc h) (by omega)
  exact ⟨t, ht, hdone, herr, hdlen, fun i hi => by rw [← State.getD_dbuf t hi, hdbuf]⟩

/-- Within `DBUF`, DER.LENDEC is DER length decoding. -/
theorem ruleOf_derLendec {l : BitVec 16} {s : State} (h : l.toNat ≤ s.cfg.dbufSize) :
    ruleOf (.derLendec l) s = (derlenDec (s.dbuf l.toNat)).map fun r => s.putRes r.1 r.2 :=
  if_neg (Nat.not_lt.2 h)

/-- A string that starts with no encoding is refused. -/
theorem derlenDec_refuses {x : Bytes} (h : ∀ v y, v < 2 ^ 31 → x ≠ derlen v ++ y) :
    derlenDec x = .error .decodeError := by
  cases hd : derlenDec x with
  | error e => rw [derlenDec_error hd]
  | ok r =>
    obtain ⟨hv, htake⟩ := take_of_derlenDec_ok hd
    exact absurd (by rw [← htake, List.take_append_drop]) (h r.1 (x.drop r.2) hv)

/-- Settles O46: the bytes stored are those of the encoding, and decoding answers the encoded value or DecodeError. -/
theorem derLengthCommands : Obligations.DerLengthCommands := by
  intro s hmem
  refine ⟨fun hshort => ?_, fun hlong hmax => ?_, fun l v y hl hv hx => ?_, fun l hl hnone => ?_⟩
  · obtain ⟨t, ht, hdone, herr, hdlen, hbyte⟩ := exec_derLenenc_stores hmem (by omega)
    rw [derlen_short hshort] at hdlen hbyte
    refine ⟨t, ht, hdone, herr, BitVec.eq_of_toNat_eq hdlen, ?_⟩
    rw [hbyte 0 Nat.zero_lt_one, List.getD_cons_zero, toNat_ofNat_byte (by omega)]
  · obtain ⟨t, ht, hdone, herr, hdlen, hbyte⟩ := exec_derLenenc_stores hmem hmax
    obtain ⟨h1, h4⟩ := bytelen_bounds hlong hmax
    rw [derlen_long hlong, List.length_cons, length_bigEndian] at hdlen hbyte
    refine ⟨t, bytelen s.arg0.toNat, ht, hdone, herr, pow_pred_bytelen_le (by omega), lt_pow_bytelen _,
      hdlen.trans (Nat.add_comm _ _), ?_, fun i hi => ?_⟩
    · rw [hbyte 0 (Nat.succ_pos _), List.getD_cons_zero, toNat_or_topBit (by omega)]
    · rw [hbyte (1 + i) (by omega), Nat.add_comm 1 i, List.getD_cons_succ, getD_bigEndian _ _ i hi,
        BitVec.toNat_ofNat]
  · exact exec_of_ruleOf_ok (by rw [ruleOf_derLendec hl, hx, derlenDec_derlen_append hv y, Except.map])
  · exact exec_of_ruleOf_error (by rw [ruleOf_derLendec hl, derlenDec_refuses hnone, Except.map])

end Sys2Proof.Machine
end

section
/-! SUPPORT. Proofs about object identifiers (46_der.md section 2). The decoder's loop is said once for one component:
it reads the groups of a component and goes on, closed, behind them; an induction over the components gives the rest. -/

namespace Sys2Proof.Machine

open Sys2Proof

/-! ## The groups of a component (R286) -/

theorem pow128 (k : Nat) : 128 ^ k = 2 ^ (7 * k) := by
  rw [Nat.pow_mul]

/-- The number of groups is the least that holds the component. -/
theorem base128_eq_digits {c k : Nat} (hlt : c < 128 ^ (k + 1)) (hmin : k = 0 ∨ 128 ^ k ≤ c) :
    base128 c = base128Digits c (k + 1) := by
  have hle : bitlen c ≤ 7 * (k + 1) := bitlen_le (by rwa [← pow128])
  have hge : k = 0 ∨ 7 * k < bitlen c := hmin.imp_right fun h =>
    (Nat.pow_lt_pow_iff_right (a := 2) (by norm_num)).1 (by
      rw [← pow128]
      exact h.trans_lt (lt_two_pow_bitlen c))
  rw [base128, show max 1 ((bitlen c + 6) / 7) = k + 1 by omega]

/-- Every component has such a number of groups. -/
theorem exists_base128 (c : Nat) :
    ∃ k, base128 c = base128Digits c (k + 1) ∧ c < 128 ^ (k + 1) ∧ (k = 0 ∨ 128 ^ k ≤ c) := by
  have hlt : c < 128 ^ (Nat.log 128 c + 1) := Nat.lt_pow_succ_log_self (by norm_num) c
  have hmin : Nat.log 128 c = 0 ∨ 128 ^ Nat.log 128 c ≤ c := by
    by_cases hc : c = 0
    · simp [hc]
    · exact .inr (Nat.pow_log_le_self 128 hc)
  exact ⟨_, base128_eq_digits hlt hmin, hlt, hmin⟩

/-- The last group has no continuation bit. -/
theorem base128Digits_one (c : Nat) : base128Digits c 1 = [BitVec.ofNat 8 (c % 128)] := by
  rw [base128Digits, base128Digits, if_pos rfl, pow_zero, Nat.div_one]
  exact congrArg (· :: []) BitVec.or_zero

/-- The groups before it have one. -/
theorem base128Digits_succ_succ (c k : Nat) :
    base128Digits c (k + 2) =
      (BitVec.ofNat 8 (c / 128 ^ (k + 1) % 128) ||| 0x80#8) :: base128Digits c (k + 1) := by
  rw [base128Digits, if_neg (Nat.succ_ne_zero k)]

/-- What is above the next group, and that group. -/
theorem div_pow_succ_mul_add_mod (c k : Nat) : c / 128 ^ (k + 1) * 128 + c / 128 ^ k % 128 = c / 128 ^ k := by
  rw [Nat.pow_succ, ← Nat.div_div_eq_div_mul]
  exact Nat.div_add_mod' _ 128

/-- The groups by their shifts, most significant first. -/
theorem base128Digits_eq_map (c : Nat) : ∀ n, base128Digits c n =
    (List.range n).map fun i =>
      BitVec.ofNat 8 ((c >>> (7 * (n - 1 - i))) % 128 + (if i + 1 < n then 128 else 0))
  | 0 => rfl
  | 1 => by simp [base128Digits_one]
  | k + 2 => by
    have hd : c / 128 ^ (k + 1) % 128 < 128 := Nat.mod_lt _ (by norm_num)
    rw [base128Digits_succ_succ, base128Digits_eq_map c (k + 1), List.range_succ_eq_map (n := k + 1),
      List.map_cons, List.map_map]
    congr 1
    · rw [show k + 2 - 1 - 0 = k + 1 by omega, Nat.shiftRight_eq_div_pow, ← pow128, if_pos (by omega)]
      refine BitVec.eq_of_toNat_eq ?_
      rw [toNat_or_topBit hd, toNat_ofNat_byte (by omega), Nat.add_comm]
    · refine List.map_congr_left fun i _ => ?_
      simp only [Function.comp_apply, Nat.succ_eq_add_one, Nat.add_lt_add_iff_right]
      congr 5
      omega

/-! ## The loop of R291 -/

/-- One byte of the loop: its checks, then the byte ends a component or goes on with it. -/
theorem oidDecLoop_cons_ok_iff {x : Byte} {xs : Bytes} {acc : Nat} {isOpen : Bool} {o r : List Nat} :
    oidDecLoop (x :: xs) acc isOpen o = .ok r ↔
      (isOpen = false → x.toNat ≠ 128) ∧ acc * 128 + x.toNat % 128 < 2 ^ 32 ∧
        ((128 ≤ x.toNat ∧ oidDecLoop xs (acc * 128 + x.toNat % 128) true o = .ok r) ∨
          (x.toNat < 128 ∧ o.length < 16 ∧ oidDecLoop xs 0 false (o ++ [acc * 128 + x.toNat % 128]) = .ok r)) := by
  have hx : x = 0x80 ↔ x.toNat = 128 := BitVec.toNat_inj.symm
  rw [oidDecLoop, check_ok, hx, toNat_and_low7]
  simp only [check_ok, Bool.not_eq_true', not_and, ge_iff_le, Nat.not_le]
  refine and_congr_right fun _ => and_congr_right fun _ => ?_
  by_cases h : 128 ≤ x.toNat
  · rw [if_pos ((getLsbD_seven_iff x).2 h)]
    simp [h, Nat.not_lt.2 h]
  · rw [if_neg (mt (getLsbD_seven_iff x).1 h), check_ok]
    simp [h, Nat.lt_of_not_ge h, Config.oidMax]

/-- Forward: the groups of a component append it, if the first of them is not an empty one. -/
theorem oidDecLoop_digits {c : Nat} (hc : c < 2 ^ 32) {ys : Bytes} {o r : List Nat} (ho : o.length < 16)
    (hr : oidDecLoop ys 0 false (o ++ [c]) = .ok r) : ∀ (k : Nat) (isOpen : Bool),
      (isOpen = false → k = 0 ∨ c / 128 ^ k % 128 ≠ 0) →
        oidDecLoop (base128Digits c (k + 1) ++ ys) (c / 128 ^ (k + 1)) isOpen o = .ok r := by
  intro k
  induction k with
  | zero =>
    intro isOpen _
    have hd : c % 128 < 128 := Nat.mod_lt _ (by norm_num)
    have hacc : c / 128 ^ 1 * 128 + c % 128 = c := Nat.div_add_mod' c 128
    rw [base128Digits_one, List.singleton_append, oidDecLoop_cons_ok_iff, toNat_ofNat_byte (by omega), Nat.mod_mod,
      hacc]
    exact ⟨fun _ => by omega, hc, .inr ⟨hd, ho, hr⟩⟩
  | succ k ih =>
    intro isOpen hfirst
    have hd : c / 128 ^ (k + 1) % 128 < 128 := Nat.mod_lt _ (by norm_num)
    rw [base128Digits_succ_succ, List.cons_append, oidDecLoop_cons_ok_iff, toNat_or_topBit hd, Nat.add_mod_left,
      Nat.mod_mod, div_pow_succ_mul_add_mod]
    refine ⟨fun hopen => ?_, (Nat.div_le_self ..).trans_lt hc, .inl ⟨by omega, ih true (by simp)⟩⟩
    have := (hfirst hopen).resolve_left (Nat.succ_ne_zero k)
    omega

/-- Backward: what the loop reads next is the groups of a component. -/
theorem exists_component_of_oidDecLoop {r : List Nat} : ∀ (xs : Bytes) {acc : Nat} {isOpen : Bool} {o : List Nat},
    (isOpen = true ∨ xs ≠ []) → oidDecLoop xs acc isOpen o = .ok r →
      ∃ c k ys, xs = base128Digits c (k + 1) ++ ys ∧ c / 128 ^ (k + 1) = acc ∧
        (isOpen = false → k = 0 ∨ c / 128 ^ k % 128 ≠ 0) ∧ o.length < 16 ∧
        oidDecLoop ys 0 false (o ++ [c]) = .ok r := by
  intro xs
  induction xs with
  | nil =>
    intro acc isOpen o hne h
    obtain rfl := hne.resolve_right (not_not.2 rfl)
    cases h
  | cons x xs ih =>
    intro acc isOpen o _ h
    obtain ⟨hfirst, -, ⟨hx, h⟩ | ⟨hx, ho, h⟩⟩ := oidDecLoop_cons_ok_iff.1 h
    · obtain ⟨c, k, ys, rfl, hacc, -, ho, hr⟩ := ih (.inl rfl) h
      have hgroup : c / 128 ^ (k + 1) % 128 = x.toNat % 128 := by omega
      have hx := ofNat_low7_or_topBit hx
      refine ⟨c, k + 1, ys, ?_, ?_, fun hopen => .inr fun h0 => ?_, ho, hr⟩
      · rw [base128Digits_succ_succ, hgroup, hx, List.cons_append]
      · have := div_pow_succ_mul_add_mod c (k + 1)
        omega
      · rw [← hgroup, h0] at hx
        exact hfirst hopen (hx ▸ rfl)
    · refine ⟨acc * 128 + x.toNat % 128, 0, xs, ?_, ?_, fun _ => .inl rfl, ho, h⟩
      · rw [base128Digits_one, show (acc * 128 + x.toNat % 128) % 128 = x.toNat by omega, BitVec.ofNat_toNat,
          BitVec.setWidth_eq, List.singleton_append]
      · omega

/-- The loop reads the groups of components one after the other. -/
theorem oidDecLoop_flatMap (cs : List Nat) : ∀ o : List Nat, (∀ c ∈ cs, c < 2 ^ 32) → o.length + cs.length ≤ 16 →
    oidDecLoop (cs.flatMap base128) 0 false o = .ok (o ++ cs) := by
  induction cs with
  | nil =>
    intro o _ _
    rw [List.append_nil]
    rfl
  | cons c cs ih =>
    intro o hc hlen
    rw [List.length_cons] at hlen
    have hrest := ih (o ++ [c]) (fun d hd => hc d (List.mem_cons_of_mem c hd)) (by
      rw [List.length_append, List.length_singleton]
      omega)
    obtain ⟨k, hk, hlt, hmin⟩ := exists_base128 c
    have hread := oidDecLoop_digits (hc c List.mem_cons_self) (by omega) hrest k false fun _ =>
      hmin.imp_right fun hle => by
        have hpos : 0 < c / 128 ^ k := Nat.div_pos hle (by positivity)
        rw [Nat.mod_eq_of_lt (Nat.div_lt_of_lt_mul (by rwa [← Nat.pow_succ]))]
        exact hpos.ne'
    rw [Nat.div_eq_of_lt hlt] at hread
    rw [List.flatMap_cons, hk, hread, List.append_assoc, List.singleton_append]

/-- What the loop accepts is the groups of the components it appends. -/
theorem eq_flatMap_of_oidDecLoop {xs : Bytes} {o r : List Nat} (h : oidDecLoop xs 0 false o = .ok r)
    (ho : o.length ≤ 16) : ∃ cs, r = o ++ cs ∧ xs = cs.flatMap base128 ∧ r.length ≤ 16 := by
  induction hn : xs.length using Nat.strong_induction_on generalizing xs o with
  | _ n ih =>
    by_cases hxs : xs = []
    · subst hxs
      have hr : o = r := Except.ok.inj h
      exact ⟨[], by rw [List.append_nil, hr], rfl, hr ▸ ho⟩
    · obtain ⟨c, k, ys, rfl, hacc, hfirst, ho, hr⟩ := exists_component_of_oidDecLoop xs (.inr hxs) h
      have hys : ys.length < n := by
        rw [← hn, List.length_append, length_base128Digits]
        omega
      obtain ⟨cs, rfl, rfl, hlen⟩ := ih ys.length hys hr (by
        rw [List.length_append, List.length_singleton]
        omega) rfl
      have hlt : c < 128 ^ (k + 1) := (Nat.div_eq_zero_iff.1 hacc).resolve_left (by positivity)
      have hmin : k = 0 ∨ 128 ^ k ≤ c := (hfirst rfl).imp_right fun hne =>
        Nat.le_of_not_lt fun hlt => hne (by rw [Nat.div_eq_of_lt hlt])
      refine ⟨c :: cs, by rw [List.append_assoc, List.singleton_append], ?_, hlen⟩
      rw [List.flatMap_cons, base128_eq_digits hlt hmin]

/-! ## The value bytes and the whole encoding (R287, R291) -/

/-- The identifiers that encode: what the checks of R287 ask of the first two components and of the others. -/
structure OidEncodes (v0 v1 : Nat) (others : List Nat) : Prop where
  length_le : others.length + 2 ≤ 16
  first_le : v0 ≤ 2
  second_le : v0 < 2 → v1 ≤ 39
  byte_le : 40 * v0 + v1 ≤ 255

/-- OID encoding: the checks, and the bytes. -/
theorem oidEnc_ok_iff {o : List Nat} {e : Bytes} : oidEnc o = .ok e ↔
    ∃ v0 v1 others, o = v0 :: v1 :: others ∧ OidEncodes v0 v1 others ∧
      e = 0x06#8 :: derlen (oidValue v0 v1 others).length ++ oidValue v0 v1 others := by
  match o with
  | [] | [_] => simp [oidEnc]
  | v0 :: v1 :: others =>
    simp only [oidEnc, check_ok, Except.ok.injEq, Config.oidMax, gt_iff_lt, Nat.not_lt, not_and, List.cons.injEq]
    constructor
    · rintro ⟨hlen, h0, h1, hb, rfl⟩
      exact ⟨v0, v1, others, ⟨rfl, rfl, rfl⟩, ⟨hlen, h0, h1, hb⟩, rfl⟩
    · rintro ⟨_, _, _, ⟨rfl, rfl, rfl⟩, ⟨hlen, h0, h1, hb⟩, rfl⟩
      exact ⟨hlen, h0, h1, hb, rfl⟩

/-- The first byte splits into the two components it was made of. -/
theorem oidDecValue_oidValue {v0 v1 : Nat} {others : List Nat} (h : OidEncodes v0 v1 others)
    (hc : ∀ c ∈ others, c < 2 ^ 32) : oidDecValue (oidValue v0 v1 others) = .ok (v0 :: v1 :: others) := by
  obtain ⟨hlen, h0, h1, hb⟩ := h
  have hfirst : min ((40 * v0 + v1) / 40) 2 = v0 := by omega
  simp only [oidDecValue, oidValue, toNat_ofNat_byte (Nat.lt_succ_of_le hb), hfirst, Nat.add_sub_cancel_left]
  exact oidDecLoop_flatMap others _ hc (by rw [Nat.add_comm]; exact hlen)

/-- Whatever value decodes is the value bytes of an identifier that encodes. -/
theorem eq_oidValue_of_oidDecValue {val : Bytes} {o : List Nat} (h : oidDecValue val = .ok o) :
    ∃ v0 v1 others, o = v0 :: v1 :: others ∧ OidEncodes v0 v1 others ∧ val = oidValue v0 v1 others := by
  match val with
  | [] => cases h
  | b :: rest =>
    have hb : b.toNat < 256 := b.isLt
    obtain ⟨others, rfl, rfl, hlen⟩ := eq_flatMap_of_oidDecLoop h (by norm_num)
    refine ⟨min (b.toNat / 40) 2, b.toNat - 40 * min (b.toNat / 40) 2, others, rfl,
      ⟨hlen, by omega, by omega, by omega⟩, ?_⟩
    rw [oidValue, show 40 * min (b.toNat / 40) 2 + (b.toNat - 40 * min (b.toNat / 40) 2) = b.toNat by omega,
      BitVec.ofNat_toNat, BitVec.setWidth_eq]

/-- OID decoding: the tag, a length, and that many value bytes. -/
theorem oidDec_ok_iff {x : Bytes} {o : List Nat} {u : Nat} : oidDec x = .ok (o, u) ↔
    ∃ rest n c, x = 0x06#8 :: rest ∧ derlenDec rest = .ok (n, c) ∧ 1 ≤ n ∧ c + n ≤ rest.length ∧
      oidDecValue ((rest.drop c).take n) = .ok o ∧ u = 1 + c + n := by
  match x with
  | [] => simp [oidDec]
  | tag :: rest =>
    simp only [oidDec, check_ok, ne_eq, not_not, List.cons.injEq]
    constructor
    · rintro ⟨rfl, h⟩
      cases hd : derlenDec rest with
      | error e => simp [hd] at h
      | ok r =>
        simp only [hd, check_ok, List.length_cons] at h
        obtain ⟨hn, h⟩ := h
        obtain ⟨o', ho, hu⟩ := map_ok h
        cases hu
        exact ⟨rest, r.1, r.2, ⟨rfl, rfl⟩, hd, by omega, by omega, ho, rfl⟩
    · rintro ⟨_, n, c, ⟨rfl, rfl⟩, hd, hn, hl, ho, rfl⟩
      refine ⟨rfl, ?_⟩
      simp only [hd, ho, Except.map, List.length_cons]
      exact if_neg (by omega)

/-- Decoding undoes encoding, whatever follows. -/
theorem oidDec_append_of_oidEnc {o : List Nat} {e : Bytes} (hc : ∀ c ∈ o, c < 2 ^ 32) (he : oidEnc o = .ok e)
    (y : Bytes) : oidDec (e ++ y) = .ok (o, e.length) := by
  have h73 := length_oidEnc_le hc he
  obtain ⟨v0, v1, others, rfl, hchecks, rfl⟩ := oidEnc_ok_iff.1 he
  generalize hval : oidValue v0 v1 others = val at *
  have hpos : 1 ≤ val.length := by
    rw [← hval]
    exact Nat.succ_pos _
  simp only [List.length_cons, List.cons_append, List.length_append] at h73
  refine oidDec_ok_iff.2 ⟨derlen val.length ++ (val ++ y), val.length, (derlen val.length).length, ?_,
    derlenDec_derlen_append (by omega) _, hpos, ?_, ?_, ?_⟩
  · simp only [List.cons_append, List.append_assoc]
  · simp only [List.length_append]
    omega
  · rw [List.drop_left, List.take_left, ← hval]
    exact oidDecValue_oidValue hchecks fun c h => hc c (List.mem_cons_of_mem v0 (List.mem_cons_of_mem v1 h))
  · simp only [List.length_cons, List.cons_append, List.length_append]
    omega

/-- Whatever decodes starts with the encoding of its identifier. -/
theorem oidEnc_of_oidDec_ok {x : Bytes} {o : List Nat} {u : Nat} (h : oidDec x = .ok (o, u)) :
    oidEnc o = .ok (x.take u) := by
  obtain ⟨rest, n, c, rfl, hd, hn, hl, ho, rfl⟩ := oidDec_ok_iff.1 h
  obtain ⟨-, htake⟩ := take_of_derlenDec_ok hd
  obtain ⟨v0, v1, others, rfl, hchecks, hval⟩ := eq_oidValue_of_oidDecValue ho
  refine oidEnc_ok_iff.2 ⟨v0, v1, others, rfl, hchecks, ?_⟩
  have hvallen : ((rest.drop c).take n).length = n := by
    rw [List.length_take, List.length_drop]
    omega
  rw [← hval, hvallen, ← htake, show 1 + c + n = (c + n) + 1 by omega, List.take_succ_cons, List.take_add,
    List.cons_append]

end Sys2Proof.Machine
end

section
/-! SUPPORT. Proofs about the commands on identifiers and about what the commands that write results leave (46_der.md
sections 2 and 3, 47_pkcs1.md R320, 48_system.md R341). -/

namespace Sys2Proof.Machine

open Sys2Proof

/-! ## The identifier registers (10_state.md R42) -/

/-- The entries written, and the others. -/
theorem getElem_putComponents (o : List Nat) : ∀ (v : Vector Word 16) (i : Nat) {k : Nat} (hk : k < 16),
    (putComponents v i o)[k] = if i ≤ k ∧ k < i + o.length then BitVec.ofNat 32 (o.getD (k - i) 0) else v[k] := by
  induction o with
  | nil =>
    intro v i k hk
    rw [if_neg (by simp)]
    rfl
  | cons c cs ih =>
    intro v i k hk
    rw [putComponents, ih _ _ hk, Vector.getElem_setIfInBounds hk, List.length_cons]
    rcases Nat.lt_trichotomy i k with hik | rfl | hik
    · rw [if_neg hik.ne, show k - i = k - (i + 1) + 1 by omega, List.getD_cons_succ]
      exact if_congr (by omega) rfl rfl
    · rw [if_neg (by omega), if_pos rfl, if_pos (by omega), Nat.sub_self, List.getD_cons_zero]
    · rw [if_neg (by omega), if_neg hik.ne', if_neg (by omega)]

theorem State.length_components (s : State) : s.components.length = s.oidn.toNat := by
  simp [State.components]

section
variable {o : List Nat} (hlen : o.length ≤ 16)
include hlen

theorem State.oidn_putOid (s : State) : (s.putOid o).oidn.toNat = o.length := by
  rw [State.putOid_oidn, BitVec.toNat_ofNat, Nat.mod_eq_of_lt (by omega)]

/-- Entries at or above the new number of components stay. -/
theorem State.oidv_putOid_above (s : State) {k : Nat} (hk : k < 16) (h : (s.putOid o).oidn.toNat ≤ k) :
    (s.putOid o).oidv[k] = s.oidv[k] := by
  rw [s.oidn_putOid hlen] at h
  exact (getElem_putComponents o s.oidv 0 hk).trans (if_neg (by omega))

/-- The identifier written is the identifier held. -/
theorem State.components_putOid (s : State) (hc : ∀ c ∈ o, c < 2 ^ 32) : (s.putOid o).components = o := by
  refine List.ext_getElem ((State.length_components _).trans (s.oidn_putOid hlen)) fun k _ hk => ?_
  have hentry := getElem_putComponents o s.oidv 0 (hk.trans_le hlen)
  rw [if_pos (by omega), Nat.sub_zero, List.getD_eq_getElem _ _ hk] at hentry
  simp only [State.components, State.putOid_oidv, List.getElem_map, List.getElem_range,
    Vector.getElem?_eq_getElem (hk.trans_le hlen), hentry, Option.getD_some, BitVec.toNat_ofNat]
  exact Nat.mod_eq_of_lt (hc _ (List.getElem_mem hk))

end

/-! ## OID.ENC and OID.DEC (R289, R292) -/

theorem length_le_of_oidEnc {o : List Nat} {e : Bytes} (he : oidEnc o = .ok e) : o.length ≤ 16 := by
  obtain ⟨v0, v1, others, rfl, hchecks, -⟩ := oidEnc_ok_iff.1 he
  exact hchecks.length_le

theorem ruleOf_oidEnc {s : State} {e : Bytes} (he : oidEnc s.components = .ok e) :
    ruleOf .oidEnc s = .ok (s.putDbuf e) := by
  rw [ruleOf, oidEncRule, he, Except.map]

/-- Within `DBUF`, OID.DEC of bytes that start with an encoding leaves its identifier and the number of bytes used. -/
theorem exec_oidDec_reads {s : State} {l : BitVec 16} {o : List Nat} {e y : Bytes} (hl : l.toNat ≤ s.cfg.dbufSize)
    (he : oidEnc o = .ok e) (hc : ∀ c ∈ o, c < 2 ^ 32) (hx : s.dbuf l.toNat = e ++ y) :
    ∃ t, exec (.oidDec l) s = .next t ∧ t.done = true ∧ t.err = s.err ∧ t.components = o ∧
      t.oidn.toNat = o.length ∧ t.res0.toNat = o.length ∧ t.res1.toNat = e.length := by
  have hlen := length_le_of_oidEnc he
  have h73 := length_oidEnc_le hc he
  have hrule : ruleOf (.oidDec l) s = .ok ((s.putOid o).putRes o.length e.length) := by
    rw [ruleOf, oidDecRule, if_neg (Nat.not_lt.2 hl), hx, oidDec_append_of_oidEnc hc he y, Except.map]
  refine ⟨_, exec_of_ruleOf_ok hrule, rfl, rfl, s.components_putOid hlen hc, s.oidn_putOid hlen, ?_, ?_⟩
  · exact Nat.mod_eq_of_lt (by omega)
  · exact Nat.mod_eq_of_lt (by omega)

/-- An encoding accepted has the tag, one length byte and the value bytes. -/
theorem eq_of_oidEnc {o : List Nat} {e : Bytes} (hc : ∀ c ∈ o, c < 2 ^ 32) (he : oidEnc o = .ok e) :
    e = [0x06#8, BitVec.ofNat 8 (e.length - 2), BitVec.ofNat 8 (40 * o.getD 0 0 + o.getD 1 0)] ++
      (o.drop 2).flatMap base128 := by
  have hlen := length_oidEnc hc he
  have h73 := length_oidEnc_le hc he
  obtain ⟨v0, v1, others, rfl, -, heq⟩ := oidEnc_ok_iff.1 he
  simp only [List.getD_cons_zero, List.getD_cons_succ, List.drop_succ_cons, List.drop_zero] at hlen ⊢
  rw [hlen, Nat.add_sub_cancel_left, heq, derlen_short (by omega)]
  rfl

/-- The conditions of R287, on the components. -/
theorem exists_oidEnc {o : List Nat} (h2 : 2 ≤ o.length) (h16 : o.length ≤ 16) (h0 : o.getD 0 0 ≤ 2)
    (h1 : o.getD 0 0 < 2 → o.getD 1 0 ≤ 39) (hb : 40 * o.getD 0 0 + o.getD 1 0 ≤ 255) : ∃ e, oidEnc o = .ok e := by
  match o with
  | v0 :: v1 :: others => exact ⟨_, oidEnc_ok_iff.2 ⟨v0, v1, others, rfl, ⟨h16, h0, h1, hb⟩, rfl⟩⟩

/-- Settles O48: the groups by induction on their number, and the two commands by the encoding's form. -/
theorem objectIdentifierCommands : Obligations.ObjectIdentifierCommands := by
  refine ⟨fun c => base128Digits_eq_map c _, fun s hmem h2 h16 h0 h1 hb => ?_,
    fun s l o e y hl he hc hx => exec_oidDec_reads hl he hc hx⟩
  rw [← s.length_components] at h2 h16
  obtain ⟨e, he⟩ := exists_oidEnc h2 h16 h0 h1 hb
  have h73 := length_oidEnc_le s.components_lt he
  have hform := eq_of_oidEnc s.components_lt he
  have hpos : 2 ≤ e.length := by rw [length_oidEnc s.components_lt he]; omega
  obtain ⟨t, ht, hdone, herr, hdlen, hdbuf⟩ := exec_stores_string hmem (ruleOf_oidEnc he) (by omega)
  refine ⟨t, ht, hdone, herr, hdlen ▸ h73, ?_⟩
  have hvalue : t.dlen.setWidth 8 - 2 = BitVec.ofNat 8 (e.length - 2) := by
    refine BitVec.eq_of_toNat_eq ?_
    rw [BitVec.toNat_sub, BitVec.toNat_setWidth, hdlen, BitVec.toNat_ofNat, show (2 : Byte).toNat = 2 from rfl]
    omega
  rw [hdlen, hdbuf, hvalue]
  exact hform

/-- Settles O49: what OID.ENC stores is what OID.DEC reads, and a `DBUF` holds 128 bytes. -/
theorem objectIdentifiersRoundTrip : Obligations.ObjectIdentifiersRoundTrip := by
  refine ⟨fun o e y hc he => oidDec_append_of_oidEnc hc he y, fun _ _ _ => oidEnc_of_oidDec_ok,
    fun s t hmem hcfg _ hexec herr => ?_⟩
  obtain ⟨_, hrule, rfl⟩ := ruleOf_ok_of_exec_no_err hexec herr
  obtain ⟨e, he, rfl⟩ := oidEncRule_ok hrule
  have h73 := length_oidEnc_le s.components_lt he
  obtain ⟨-, -, -, -, -, h128, -⟩ := (Config.wf_iff s.cfg).1 hcfg
  have hdlen : (s.putDbuf e).complete.dlen.toNat = e.length := Nat.mod_eq_of_lt (by omega)
  have hx : (s.putDbuf e).complete.dbuf (s.putDbuf e).complete.dlen.toNat = e ++ [] := by
    rw [hdlen, List.append_nil]
    exact State.dbuf_putDbuf hmem e
  have hl : (s.putDbuf e).complete.dlen.toNat ≤ s.cfg.dbufSize := by omega
  obtain ⟨u, hu, hdone, herr', hcomp, -, -, hres⟩ :=
    exec_oidDec_reads (s := (s.putDbuf e).complete) hl he s.components_lt hx
  exact ⟨u, hu, hdone, herr'.trans herr, hcomp, hres.trans hdlen.symm⟩

/-! ## ALGID.ENC and OID.LDALG (R295, R296) -/

/-- The printed identifiers fit `OIDV`. -/
theorem algorithmOid_fits (alg : BitVec 4) :
    (algorithmOid alg).length ≤ 16 ∧ ∀ c ∈ algorithmOid alg, c < 2 ^ 32 := by
  revert alg
  decide +kernel

/-- Settles O50: the nine rows are the printed ones, and the other codes name none. -/
theorem algorithmTableCommands : Obligations.AlgorithmTableCommands := by
  intro alg s
  refine ⟨fun ha hmem => ?_, fun ha => ?_, fun ha => ⟨?_, ?_⟩⟩
  · obtain ⟨row, hrow, -, -, he, hlen, h15, -⟩ := algOf_some ha
    have hrule : ruleOf (.algidEnc alg) s = .ok (s.putDbuf (algidBytes alg)) := by
      simp only [ruleOf, algidEncRule, hrow, he, Except.map]
    rw [← hlen]
    exact exec_stores_string hmem hrule (by omega)
  · obtain ⟨row, hrow, hoid, hh, -, -, -, h64⟩ := algOf_some ha
    have hrule : ruleOf (.oidLdalg alg) s = .ok ((s.putOid (algorithmOid alg)).putRes (hLenOf alg) 0) := by
      simp only [ruleOf, oidLdalgRule, hrow, hoid, hh]
    obtain ⟨hlen, hc⟩ := algorithmOid_fits alg
    exact ⟨_, exec_of_ruleOf_ok hrule, rfl, rfl, s.components_putOid hlen hc, s.oidn_putOid hlen,
      Nat.mod_eq_of_lt (by omega), rfl⟩
  · have hrule : ruleOf (.algidEnc alg) s = .error .unsupportedAlgorithm := by
      simp only [ruleOf, algidEncRule, algOf_none ha]
    exact exec_of_ruleOf_error hrule
  · have hrule : ruleOf (.oidLdalg alg) s = .error .unsupportedAlgorithm := by
      simp only [ruleOf, oidLdalgRule, algOf_none ha]
    exact exec_of_ruleOf_error hrule

/-! ## What the commands that write results leave (R285, R292, R296) -/

/-- What decodes has at most sixteen components (R291). -/
theorem length_le_of_oidDec {x : Bytes} {o : List Nat} {u : Nat} (h : oidDec x = .ok (o, u)) : o.length ≤ 16 :=
  length_le_of_oidEnc (oidEnc_of_oidDec_ok h)

/-- Every row's identifier has at most sixteen components (10_state.md R46). -/
theorem length_oid_le {alg : BitVec 4} {row : AlgRow} (h : algOf alg = some row) : row.oid.length ≤ 16 := by
  have ha : alg.toNat < 9 := Nat.lt_of_not_le fun h9 => by simp [algOf_none h9] at h
  obtain ⟨row', hrow', hoid, -⟩ := algOf_some ha
  obtain rfl : row = row' := Option.some.inj (h.symm.trans hrow')
  exact hoid ▸ (algorithmOid_fits alg).1

/-- The commit point of a command whose rule can only write results. -/
theorem exec_frame_of_results {i : Instr} {s t : State}
    (hrule : ∀ u, ruleOf i s = .ok u → ∃ a b, u = s.putRes a b) (h : exec i s = .next t) :
    (∃ x : Exc, t = { s with engine := .idle, err := true, errcode := x.code, errcmd := encode i }) ∨
      t = { s with engine := .idle, done := true, res0 := t.res0, res1 := t.res1 } := by
  refine (exec_raises_or_completes h).imp_right fun ⟨u, hu, ht⟩ => ?_
  obtain ⟨a, b, rfl⟩ := hrule u hu
  rw [ht]
  rfl

/-- The commit point of a command whose rule can only write an identifier and results. -/
theorem exec_frame_of_identifier {i : Instr} {s t : State}
    (hrule : ∀ u, ruleOf i s = .ok u → ∃ o a b, o.length ≤ 16 ∧ u = (s.putOid o).putRes a b)
    (h : exec i s = .next t) :
    (∃ x : Exc, t = { s with engine := .idle, err := true, errcode := x.code, errcmd := encode i }) ∨
    (t = { s with engine := .idle, done := true, res0 := t.res0, res1 := t.res1, oidn := t.oidn, oidv := t.oidv } ∧
      ∀ (k : Nat) (h : k < 16), t.oidn.toNat ≤ k → t.oidv[k] = s.oidv[k]) := by
  refine (exec_raises_or_completes h).imp_right fun ⟨u, hu, ht⟩ => ?_
  obtain ⟨o, a, b, hlen, rfl⟩ := hrule u hu
  subst ht
  exact ⟨rfl, fun k hk hle => s.oidv_putOid_above hlen hk hle⟩

/-- Settles O18: two of the rules write results, two an identifier and results, NOP's none. -/
theorem frameOfResultCommands : Obligations.FrameOfResultCommands := by
  intro i l alg s t h
  refine ⟨fun hi => exec_frame_of_results (fun u hu => ?_) h,
    fun hi => exec_frame_of_identifier (fun u hu => ?_) h, ?_⟩
  · simp only [List.mem_cons, List.not_mem_nil, or_false] at hi
    rcases hi with rfl | rfl
    · obtain ⟨v, c, -, -, rfl⟩ := derLendecRule_ok hu
      exact ⟨v, c, rfl⟩
    · obtain ⟨row, -, -, -, rfl⟩ := pkcsVerifyRule_ok hu
      exact ⟨_, _, rfl⟩
  · simp only [List.mem_cons, List.not_mem_nil, or_false] at hi
    rcases hi with rfl | rfl
    · obtain ⟨o, c, -, ho, rfl⟩ := oidDecRule_ok hu
      exact ⟨o, _, _, length_le_of_oidDec ho, rfl⟩
    · obtain ⟨row, hrow, rfl⟩ := oidLdalgRule_ok hu
      exact ⟨row.oid, _, _, length_oid_le hrow, rfl⟩
  · rintro rfl
    cases h
    rfl

end Sys2Proof.Machine
end

section
/-! SUPPORT. Proofs about EMSA.ENC, PKCS.SIGN and PKCS.VERIFY (47_pkcs1.md). The encoded message is said once, by the
digest in `HBUF`; it is below every modulus it fits, so both forms of RSASP1 sign it, and PKCS.VERIFY's comparison of
bytes (R320) is one of numbers. -/

namespace Sys2Proof.Machine

open Sys2Proof

/-! ## The encoded message (R311, R312) -/

/-- A row found in the table is a supported code's, with the digest length R46 prints. -/
theorem algOf_eq_some {alg : BitVec 4} {row : AlgRow} (h : algOf alg = some row) :
    alg.toNat < 9 ∧ row.hLen = hLenOf alg := by
  have ha : alg.toNat < 9 := Nat.lt_of_not_le fun h9 => by simp [algOf_none h9] at h
  obtain ⟨row', hrow', -, hh, -⟩ := algOf_some ha
  obtain rfl : row = row' := Option.some.inj (h.symm.trans hrow')
  exact ⟨ha, hh⟩

/-- EM of the digest in `HBUF`. -/
abbrev State.encodedMessage (s : State) (alg : BitVec 4) (emLen : Nat) : Bytes :=
  emBytes s.cfg.emsaTForm alg (s.hbuf s.hlen.toNat) emLen

section
variable {alg : BitVec 4} {row : AlgRow} {s : State} {emLen : Nat}

/-- Past the check of the digest's length, the check of the message's length decides. -/
theorem State.emsa_eq (hrow : algOf alg = some row) (hh : s.hlen.toNat ≤ hLenOf alg) (emLen : Nat) :
    emsa s.cfg.emsaTForm row (s.hbuf s.hlen.toNat) emLen =
      if emLen < tLenOf s.cfg.emsaTForm alg s.hlen.toNat + 11 then .error .encodedMessageTooShort
      else .ok (s.encodedMessage alg emLen) := by
  rw [Machine.emsa_eq s.cfg.emsaTForm emLen (algOf_eq_some hrow).1 hrow (by rwa [s.length_hbuf]), s.length_hbuf]

variable (ha : alg.toNat < 9) (hh : s.hlen.toNat ≤ hLenOf alg)
  (hlen : tLenOf s.cfg.emsaTForm alg s.hlen.toNat + 11 ≤ emLen)
include ha hh hlen

theorem State.length_encodedMessage : (s.encodedMessage alg emLen).length = emLen :=
  length_emBytes _ ha (by rwa [s.length_hbuf]) (by rwa [s.length_hbuf])

/-- The encoded message of a modulus' byte length is a representative: its first byte is zero. -/
theorem State.os2ip_encodedMessage_lt {n : Nat} (hn : n ≠ 0) (hk : bytelen n = emLen) :
    os2ip (s.encodedMessage alg emLen) < n := by
  have hlt := os2ip_emBytes_lt s.cfg.emsaTForm ha (h := s.hbuf s.hlen.toNat) (by rwa [s.length_hbuf])
    (emLen := emLen) (by rwa [s.length_hbuf])
  exact hlt.trans_le (hk ▸ pow_pred_bytelen_le hn)

end

/-! ## EMSA.ENC and PKCS.SIGN (R315, R318) -/

/-- A stored number is read back. -/
theorem State.os2ip_dbuf_putDbuf_bigEndian (s : State) (hmem : Memory.wf s.mem = true) {v l : Nat} (hv : v < 256 ^ l) :
    os2ip ((s.putDbuf (bigEndian v l)).dbuf l) = v := by
  have hback := State.dbuf_putDbuf hmem (bigEndian v l)
  rw [length_bigEndian] at hback
  rw [hback, os2ip_bigEndian, Nat.mod_eq_of_lt hv]

section
variable {alg : BitVec 4} {s : State} (ha : alg.toNat < 9) (hh : s.hlen.toNat ≤ hLenOf alg)
include ha hh

theorem ruleOf_emsaEnc {l : BitVec 16} (hl : l.toNat ≤ s.cfg.dbufSize)
    (hlen : tLenOf s.cfg.emsaTForm alg s.hlen.toNat + 11 ≤ l.toNat) :
    ruleOf (.emsaEnc alg l) s = .ok (s.putDbuf (s.encodedMessage alg l.toNat)) := by
  obtain ⟨row, hrow, -, hrowLen, -⟩ := algOf_some ha
  simp only [ruleOf, emsaEncRule, hrow, hrowLen, if_neg (Nat.not_lt.2 hl), if_neg (Nat.not_lt.2 hh),
    s.emsa_eq hrow hh, if_neg (Nat.not_lt.2 hlen), Except.map]

variable (hlen : tLenOf s.cfg.emsaTForm alg s.hlen.toNat + 11 ≤ bytelen (s.bnVal regN))
include hlen

/-- PKCS.SIGN with a usable key stores the value of the primitive, if it fits. -/
theorem ruleOf_pkcsSign {form : KeyForm} {v : Nat} (hkey : s.keycheck form = false)
    (hv : s.rsasp1 form (os2ip (s.encodedMessage alg (bytelen (s.bnVal regN)))) = .ok v)
    (hfits : v < 256 ^ bytelen (s.bnVal regN)) :
    ruleOf (.pkcsSign alg form) s = .ok (s.putDbuf (bigEndian v (bytelen (s.bnVal regN)))) := by
  obtain ⟨row, hrow, -, hrowLen, -⟩ := algOf_some ha
  simp only [ruleOf, pkcsSignRule, hrow, hrowLen, hkey, if_neg (Nat.not_lt.2 hh), s.emsa_eq hrow hh,
    if_neg (Nat.not_lt.2 hlen), hv, if_neg (Nat.not_le.2 hfits), Bool.false_eq_true, if_false]

/-- PKCS.SIGN completes with the value of the primitive in `DBUF`. -/
theorem exec_pkcsSign_signs (hmem : Memory.wf s.mem = true) {form : KeyForm} {v : Nat} (hkey : s.keycheck form = false)
    (hv : s.rsasp1 form (os2ip (s.encodedMessage alg (bytelen (s.bnVal regN)))) = .ok v)
    (hfits : v < 256 ^ bytelen (s.bnVal regN)) :
    ∃ t, exec (.pkcsSign alg form) s = .next t ∧ t.done = true ∧ t.err = s.err ∧
      t.dlen = BitVec.ofNat 16 (bytelen (s.bnVal regN)) ∧ os2ip (t.dbuf (bytelen (s.bnVal regN))) = v := by
  refine ⟨_, exec_of_ruleOf_ok (ruleOf_pkcsSign ha hh hlen hkey hv hfits), rfl, rfl, ?_,
    s.os2ip_dbuf_putDbuf_bigEndian hmem hfits⟩
  rw [State.complete_dlen, State.putDbuf_dlen, length_bigEndian]

end

/-- The modulus of a usable key is not 0, in either form (45_rsa.md R264). -/
theorem State.bnVal_regN_ne_zero {s : State} {form : KeyForm} (h : s.keycheck form = false) : s.bnVal regN ≠ 0 := by
  cases form with
  | pair =>
    obtain ⟨-, -, hN⟩ := s.keycheckPair_eq_false_iff.1 h
    exact hN
  | multiPrime => exact fun hN => Bool.eq_false_iff.1 h (s.keycheckMp_iff.2 (.inr (.inr (.inr (.inl hN)))))

/-- Settles O51: the encoded message is below the modulus, so both forms sign it, and a residue fits. -/
theorem emsaEncodesAndPkcsSigns : Obligations.EmsaEncodesAndPkcsSigns := by
  intro alg s hmem ha hh
  refine ⟨fun l hl hlen => ?_, fun hlen => ⟨fun hkey => ?_, fun hkey hfits => ?_⟩⟩
  · have hem := s.length_encodedMessage ha hh hlen
    have hback := State.dbuf_putDbuf hmem (s.encodedMessage alg l.toNat)
    rw [hem] at hback
    refine ⟨_, exec_of_ruleOf_ok (ruleOf_emsaEnc ha hh hl hlen), rfl, rfl, ?_, hback⟩
    rw [State.complete_dlen, State.putDbuf_dlen, hem, BitVec.ofNat_toNat, BitVec.setWidth_eq]
  · have hN := State.bnVal_regN_ne_zero (form := .pair) hkey
    refine exec_pkcsSign_signs ha hh hlen hmem hkey (State.rsasp1_pair (s.os2ip_encodedMessage_lt ha hh hlen hN rfl)) ?_
    exact (Nat.mod_lt _ (Nat.pos_of_ne_zero hN)).trans (lt_pow_bytelen _)
  · have hN := State.bnVal_regN_ne_zero (form := .multiPrime) hkey
    exact exec_pkcsSign_signs ha hh hlen hmem hkey
      (State.rsasp1_multiPrime (s.os2ip_encodedMessage_lt ha hh hlen hN rfl)) hfits

/-! ## PKCS.VERIFY (R320, R321) -/

/-- A number that fits has a given string as its bytes exactly when it is the string's number. -/
theorem bigEndian_eq_iff {v l : Nat} {x : Bytes} (hv : v < 256 ^ l) (hx : x.length = l) :
    bigEndian v l = x ↔ v = os2ip x := by
  constructor
  · rintro rfl
    rw [os2ip_bigEndian, Nat.mod_eq_of_lt hv]
  · rintro rfl
    rw [← hx, bigEndian_os2ip]

/-- A check in front of a boolean that answers false. -/
theorem check_true {c : Prop} [Decidable c] {b : Bool} : (if c then false else b) = true ↔ ¬c ∧ b = true := by
  by_cases hc : c <;> simp [hc]

/-- The boolean of PKCS.VERIFY, check by check; the bytes compared last are those of two numbers below 256^k. -/
theorem State.verifies_iff {alg : BitVec 4} {row : AlgRow} {s : State} (hrow : algOf alg = some row)
    (hN : s.bnVal regN ≠ 0) (l : Nat) :
    s.verifies row l = true ↔
      l = bytelen (s.bnVal regN) ∧ os2ip (s.dbuf l) < s.bnVal regN ∧ s.hlen.toNat ≤ hLenOf alg ∧
        tLenOf s.cfg.emsaTForm alg s.hlen.toNat + 11 ≤ bytelen (s.bnVal regN) ∧
        os2ip (s.dbuf l) ^ s.bnVal regE % s.bnVal regN =
          os2ip (s.encodedMessage alg (bytelen (s.bnVal regN))) := by
  obtain ⟨ha, hrowLen⟩ := algOf_eq_some hrow
  simp only [State.verifies, check_true, hrowLen, ne_eq, not_not, ge_iff_le, Nat.not_le, gt_iff_lt, Nat.not_lt]
  refine and_congr_right fun _ => and_congr_right fun _ => and_congr_right fun hh => ?_
  rw [s.emsa_eq hrow hh]
  by_cases hshort : bytelen (s.bnVal regN) < tLenOf s.cfg.emsaTForm alg s.hlen.toNat + 11
  · simp [hshort]
  · have hlen := Nat.not_lt.1 hshort
    have hfits := (modexp_lt (os2ip (s.dbuf l)) (s.bnVal regE) hN).trans (lt_pow_bytelen _)
    simp only [if_neg hshort, hlen, true_and, beq_iff_eq]
    rw [bigEndian_eq_iff hfits (s.length_encodedMessage ha hh hlen), modexp_eq]

/-- Settles O52: past the three checks the rule writes the boolean and 0. -/
theorem pkcsVerifyFailsClosed : Obligations.PkcsVerifyFailsClosed := by
  intro alg l s ha hl hkey
  obtain ⟨row, hrow, -⟩ := algOf_some ha
  obtain ⟨-, -, hN⟩ := s.keycheckPub_eq_false_iff.1 hkey
  have hrule : ruleOf (.pkcsVerify alg l) s = .ok (s.putRes (if s.verifies row l.toNat then 1 else 0) 0) := by
    simp only [ruleOf, pkcsVerifyRule, hrow, if_neg (Nat.not_lt.2 hl), hkey, Bool.false_eq_true, if_false]
  rw [exec_of_ruleOf_ok hrule, State.putRes, apply_ite (BitVec.ofNat 32)]
  simp only [s.verifies_iff hrow hN]
  rfl

/-! ## A signature verifies (R321) -/

/-- What PKCS.SIGN needs and leaves when it completes, said by the encoded message. -/
theorem pkcsSign_completes {alg : BitVec 4} {form : KeyForm} {s t : State}
    (h : exec (.pkcsSign alg form) s = .next t) (herr : t.err = false) :
    ∃ v, alg.toNat < 9 ∧ s.hlen.toNat ≤ hLenOf alg ∧
      tLenOf s.cfg.emsaTForm alg s.hlen.toNat + 11 ≤ bytelen (s.bnVal regN) ∧
      s.rsasp1 form (os2ip (s.encodedMessage alg (bytelen (s.bnVal regN)))) = .ok v ∧
      t = (s.putDbuf (bigEndian v (bytelen (s.bnVal regN)))).complete := by
  obtain ⟨_, hrule, rfl⟩ := ruleOf_ok_of_exec_no_err h herr
  obtain ⟨row, em, v, hrow, -, hh, hem, hv, -, rfl⟩ := pkcsSignRule_ok hrule
  obtain ⟨ha, hrowLen⟩ := algOf_eq_some hrow
  rw [hrowLen] at hh
  rw [s.emsa_eq hrow hh, check_ok, Nat.not_lt, Except.ok.injEq] at hem
  obtain ⟨hlen, rfl⟩ := hem
  exact ⟨v, ha, hh, hlen, hv, rfl⟩

/-- With a consistent key both forms sign a representative with its power modulo `N`. -/
theorem State.rsasp1_eq_pow {s : State} {form : KeyForm} {m : Nat} (hm : m < s.bnVal regN)
    (hcons : form = .multiPrime → s.ConsistentMultiPrime (s.bnVal regD)) :
    s.rsasp1 form m = .ok (m ^ s.bnVal regD % s.bnVal regN) := by
  cases form with
  | pair => exact State.rsasp1_pair hm
  | multiPrime => rw [State.rsasp1_multiPrime hm, (hcons rfl).multiPrimeValue_eq]

/-- `HBUF` lies below `DBUF`: a stored string leaves a digest of at most 64 bytes as it was (20_memory.md R71). -/
theorem State.hbuf_putDbuf (s : State) (x : Bytes) {n : Nat} (hn : n ≤ 64) : (s.putDbuf x).hbuf n = s.hbuf n :=
  Memory.readBytes_congr n hbufBase fun i hi => s.read_putDbuf_other x <| by
    simp only [hbufBase, dbufBase]
    omega

/-- So the digest's encoded message is the same after a stored string. -/
theorem State.encodedMessage_putDbuf {alg : BitVec 4} (s : State) (x : Bytes) (ha : alg.toNat < 9)
    (hh : s.hlen.toNat ≤ hLenOf alg) (emLen : Nat) :
    (s.putDbuf x).encodedMessage alg emLen = s.encodedMessage alg emLen := by
  obtain ⟨_, -, -, -, -, -, -, h64⟩ := algOf_some ha
  exact congrArg (emBytes s.cfg.emsaTForm alg · emLen) (s.hbuf_putDbuf x (hh.trans h64))

/-- A number below `N` whose power with `E` is the encoded message verifies, from where PKCS.SIGN stores it. -/
theorem exec_pkcsVerify_accepts_stored {alg : BitVec 4} {s : State} {v : Nat} (hmem : Memory.wf s.mem = true)
    (ha : alg.toNat < 9) (hh : s.hlen.toNat ≤ hLenOf alg)
    (hlen : tLenOf s.cfg.emsaTForm alg s.hlen.toNat + 11 ≤ bytelen (s.bnVal regN)) (hkey : s.keycheckPub = false)
    (hk : bytelen (s.bnVal regN) ≤ s.cfg.dbufSize) (hk16 : bytelen (s.bnVal regN) < 2 ^ 16) (hv : v < s.bnVal regN)
    (hpow : v ^ s.bnVal regE % s.bnVal regN = os2ip (s.encodedMessage alg (bytelen (s.bnVal regN)))) :
    let t := (s.putDbuf (bigEndian v (bytelen (s.bnVal regN)))).complete
    ∃ u, exec (.pkcsVerify alg t.dlen) t = .next u ∧ u.done = true ∧ u.err = s.err ∧ u.res0 = 1 := by
  have hdlen : (s.putDbuf (bigEndian v (bytelen (s.bnVal regN)))).dlen.toNat = bytelen (s.bnVal regN) := by
    rw [State.putDbuf_dlen, length_bigEndian]
    exact Nat.mod_eq_of_lt hk16
  have hread := s.os2ip_dbuf_putDbuf_bigEndian hmem (hv.trans (lt_pow_bytelen _))
  refine ⟨_, pkcsVerifyFailsClosed alg _ _ ha ?_ hkey, rfl, rfl, if_pos ?_⟩
  · rw [State.complete_dlen, hdlen]
    exact hk
  · simp only [State.complete_dlen, hdlen, State.dbuf_complete, hread]
    exact ⟨rfl, hv, hh, hlen, hpow.trans (congrArg os2ip (s.encodedMessage_putDbuf _ ha hh _).symm)⟩

/-- Settles O53: the signature is the encoded message's power with `D`, below `N`, and the exponents undo each other. -/
theorem signedMessageVerifies : Obligations.SignedMessageVerifies := by
  intro alg form s t hmem hcfg hserr hpub hN hexp hcons hexec herr
  obtain ⟨v, ha, hh, hlen, hv, rfl⟩ := pkcsSign_completes hexec herr
  obtain ⟨-, -, hN0⟩ := s.keycheckPub_eq_false_iff.1 hpub
  have hm := s.os2ip_encodedMessage_lt ha hh hlen hN0 rfl
  obtain rfl := Except.ok.inj ((State.rsasp1_eq_pow hm hcons).symm.trans hv)
  have hk : bytelen (s.bnVal regN) ≤ s.cfg.kmax := bytelen_le (by rwa [pow256])
  obtain ⟨-, -, hkmax, -, -, -, hdbuf, -⟩ := (Config.wf_iff s.cfg).1 hcfg
  obtain ⟨u, hu, hdone, huerr, hres⟩ := exec_pkcsVerify_accepts_stored hmem ha hh hlen hpub (hk.trans hkmax)
    (by omega) (Nat.mod_lt _ (Nat.pos_of_ne_zero hN0)) (hexp.pow_pow_mod hm)
  exact ⟨u, hu, hdone, huerr.trans hserr, hres⟩

end Sys2Proof.Machine
end

section
/-! SUPPORT. Proofs about the system commands (48_system.md): a running command's step is its commit point, whatever
brings it there; the `CTRL` actions; NOP. -/

namespace Sys2Proof.Machine

open Sys2Proof

/-! ## The commit point of a word that decodes (R340) -/

theorem commit_of_decode {s : State} {c : Word} {i : Instr} (h : decode s.cfg c = .ok i) : commit c s = exec i s := by
  simp only [commit, h]

/-- The step of a running command with nothing on the agenda: its commit point (20_memory.md R84). -/
theorem step_agenda_empty {s : State} {c : Word} (he : s.engine = .running c) (h : s.agenda = []) :
    step s = commit c s := by
  simp only [step, moveOn, h, engineMoment, he]

/-- A placed word is an accepted one. -/
theorem State.withFetchWord_toNat (s : State) (c : Word) : s.withFetchWord 32 c.toNat = s.withAccepted c := by
  rw [State.withFetchWord, Nat.mod_eq_of_lt c.isLt, BitVec.ofNat_toNat, BitVec.setWidth_eq]

/-- The step after a placed word: the commit point of the state that accepted it. -/
theorem step_withFetchWord (s : State) (c : Word) : step (s.withFetchWord 32 c.toNat) = commit c (s.accept c) := by
  rw [s.withFetchWord_toNat, step_engine_running (c := c) (es := s.agenda) rfl rfl]
  rfl

/-- Settles O4: each of the four steps is the commit point, which runs the decoded command. -/
theorem stepRunsDecodedInstruction : Obligations.StepRunsDecodedInstruction := by
  intro s c i hi
  refine ⟨fun es he h => ?_, fun he h => ?_, fun a es he h ha => ?_, ?_⟩
  · exact (step_engine_running he h).trans (commit_of_decode (s := s.withAgenda es) hi)
  · exact (step_agenda_empty he h).trans (commit_of_decode hi)
  · exact (step_held he h ha).trans (commit_of_decode hi)
  · exact (step_withFetchWord s c).trans (commit_of_decode (s := s.accept c) hi)

/-! ## The `CTRL` actions (R343 to R345) -/

/-- Without ZEROIZE: CLRERR if bit 0 asks for it, POP if bit 1 does. -/
theorem State.ctrlAction_of_not_zeroize (s : State) {v : Word} (h : v.getLsbD 2 = false) :
    s.ctrlAction v = { s with
      err := if v.getLsbD 0 then false else s.err
      errcode := if v.getLsbD 0 then 0 else s.errcode
      errcmd := if v.getLsbD 0 then 0 else s.errcmd
      outq := if v.getLsbD 1 then s.outq.drop 1 else s.outq } := by
  simp only [State.ctrlAction, h, Bool.false_eq_true, if_false, List.drop_one]
  cases v.getLsbD 0 <;> cases v.getLsbD 1 <;> rfl

/-- Settles O10: the step is the action, acknowledged. -/
theorem controlActionsClearErrorAndPop : Obligations.ControlActionsClearErrorAndPop := by
  intro s v es he h hv
  rw [step_host_idle he h, ← s.withAgenda_cfg es, State.hostAccess_ctrl, State.ctrlAction_of_not_zeroize _ hv]
  rfl

/-! ## NOP (R341) -/

theorem encode_nop : encode .nop = 0 := by decide

/-- Only NOP has the operation code 0 (30_encoding.md R104). -/
theorem eq_nop_of_decode {cfg : Config} {c : Word} {i : Instr} (hc : c.toNat % 256 = 0) (h : decode cfg c = .ok i) :
    i = .nop := by
  have hopc : opcOf c = 0 := BitVec.eq_of_toNat_eq ((opcOf_toNat c).trans hc)
  have hfields := ((decode_eq_ok_iff cfg c i).1 h).2
  rw [hopc] at hfields
  exact (Except.ok.inj hfields).symm

/-- The word of NOP is the zero word. -/
theorem decode_eq_nop_iff (cfg : Config) (c : Word) : decode cfg c = .ok .nop ↔ c = 0 := by
  rw [decodeAndEncodeAgree cfg c .nop, encode_nop, eq_comm]
  exact and_iff_left rfl

/-- Settles O20: the rule of NOP is empty, its word is the only one of its operation code, and a dropped write is
O6's. -/
theorem nopOnlySetsDone : Obligations.NopOnlySetsDone := by
  refine ⟨fun s => rfl, fun cfg c hc => ⟨(decode_eq_nop_iff cfg c).symm, fun hne => ?_⟩,
    fun s es he herr h => (commandWriteAcceptedOrDropped s 0 es he h).2 herr, by decide⟩
  cases h : decode cfg c with
  | error r => exact ⟨r, rfl⟩
  | ok i =>
    rw [eq_nop_of_decode hc h] at h
    exact absurd ((decode_eq_nop_iff cfg c).1 h) hne

end Sys2Proof.Machine
end

section
/-! SUPPORT. Proofs about exceptions (60_exceptions.md): precision, the order of a command's checks, and what the bus
shows. The order is said rule by rule: a list of checks decides a rule when the rule answers the exception of the first
that holds, and else succeeds. -/

namespace Sys2Proof.Machine

open Sys2Proof

/-! ## Precision (R364) -/

/-- A commit point that sets `ERR` has only taken an exception, with the accepted word. -/
theorem commit_raises {c : Word} {s t : State} (h : commit c s = .next t) (hs : s.err = false) (ht : t.err = true) :
    ∃ x, t = s.raise x c := by
  rcases commit_cases c s with ⟨i, hi, hexec⟩ | ⟨r, -, hraise⟩
  · obtain ⟨rfl, -⟩ := (decodeAndEncodeAgree s.cfg c i).1 hi
    refine (exec_raises_or_completes (hexec.symm.trans h)).resolve_right fun ⟨u, hu, htu⟩ => ?_
    rw [htu, State.complete_err, (ruleOf_keeps hu).err, hs] at ht
    exact Bool.false_ne_true ht
  · rw [hraise] at h
    injection h with h
    exact ⟨_, h.symm⟩

/-- Settles O11: the step is the commit point. -/
theorem exceptionsArePrecise : Obligations.ExceptionsArePrecise := by
  refine ⟨rfl, fun s t c es he h hs hstep ht => ?_⟩
  rw [step_engine_running he h] at hstep
  exact commit_raises (s := s.withAgenda es) hstep hs ht

/-! ## Checks that decide a rule (R367, R373) -/

/-- The first check that holds gives the rule's exception; without one the rule succeeds. -/
def DecidedBy {α : Type} (cs : List (Bool × Exc)) (r : Except Exc α) : Prop :=
  (∀ x, firstFailing cs = some x → r = .error x) ∧ (firstFailing cs = none → ∃ a, r = .ok a)

namespace DecidedBy

variable {α β : Type} {cs : List (Bool × Exc)} {b : Bool} {x : Exc} {r : Except Exc α}

/-- A rule with no checks left succeeds. -/
theorem ok (a : α) : DecidedBy [] (.ok a) := ⟨fun _ => nofun, fun _ => ⟨a, rfl⟩⟩

/-- A check that holds decides. -/
theorem fails (hb : b = true) : DecidedBy ((b, x) :: cs) (.error x : Except Exc α) := by
  subst hb
  exact ⟨fun y hy => congrArg _ (Option.some.inj hy), nofun⟩

/-- A check that does not hold leaves the rest to decide. -/
theorem passes (hb : b = false) (h : DecidedBy cs r) : DecidedBy ((b, x) :: cs) r := by
  subst hb
  exact h

/-- A check written in front of a rule. -/
theorem check {c : Prop} [Decidable c] (hb : b = true ↔ c) (h : ¬c → DecidedBy cs r) :
    DecidedBy ((b, x) :: cs) (if c then .error x else r) := by
  by_cases hc : c
  · rw [if_pos hc]
    exact fails (hb.2 hc)
  · rw [if_neg hc]
    exact passes (Bool.eq_false_iff.2 fun h => hc (hb.1 h)) (h hc)

/-- The check in the form of a decided proposition. -/
theorem check_decide {c : Prop} [Decidable c] (h : ¬c → DecidedBy cs r) :
    DecidedBy ((decide c, x) :: cs) (if c then .error x else r) :=
  check decide_eq_true_iff h

/-- The check that a bit is set. -/
theorem check_not {q : Bool} (h : DecidedBy cs r) : DecidedBy ((!q, x) :: cs) (if q = false then .error x else r) :=
  check (by simp) fun _ => h

theorem map (h : DecidedBy cs r) (f : α → β) : DecidedBy cs (r.map f) := by
  refine ⟨fun x hx => by rw [h.1 x hx]; rfl, fun hn => ?_⟩
  obtain ⟨a, rfl⟩ := h.2 hn
  exact ⟨f a, rfl⟩

/-- The only check of a rule whose only exception is x. -/
theorem only (hb : b = false ↔ ∃ a, r = .ok a) (hx : ∀ e, r = .error e → e = x) : DecidedBy [(b, x)] r := by
  cases r with
  | ok a => exact passes (hb.2 ⟨a, rfl⟩) (ok a)
  | error e =>
    obtain rfl := hx e rfl
    exact fails (Bool.eq_true_of_not_eq_false fun h => nomatch hb.1 h)

/-- The check of a decoder that answers one exception (46_der.md R284, R291). -/
theorem isNone (hx : ∀ e, r = .error e → e = x) : DecidedBy [(r.toOption.isNone, x)] r :=
  only (by cases r <;> simp [Except.toOption]) hx

/-- The check of the hash code (10_state.md R46): a rule goes on with the row it names. -/
theorem supported {alg : BitVec 4} (hnone : algOf alg = none → r = .error .unsupportedAlgorithm)
    (hsome : ∀ row, algOf alg = some row → row.hLen = hLenOf alg → algidEnc row = .ok (algidBytes alg) →
      DecidedBy cs r) :
    DecidedBy ((decide (alg.toNat ≥ 9), .unsupportedAlgorithm) :: cs) r := by
  by_cases ha : alg.toNat ≥ 9
  · rw [hnone (algOf_none ha)]
    exact fails (decide_eq_true ha)
  · obtain ⟨row, hrow, -, hlen, henc, -⟩ := algOf_some (Nat.not_le.1 ha)
    exact passes (decide_eq_false ha) (hsome row hrow hlen henc)

/-- A decided rule's command ends as the first check says (48_system.md R340). -/
theorem exec_raises {i : Instr} {s : State} {x : Exc} (h : DecidedBy (checks i s) (ruleOf i s))
    (hx : firstFailing (checks i s) = some x) : exec i s = .next (s.raise x (encode i)) :=
  exec_of_ruleOf_error (h.1 x hx)

theorem exec_completes {i : Instr} {s : State} (h : DecidedBy (checks i s) (ruleOf i s))
    (hn : firstFailing (checks i s) = none) :
    ∃ t, exec i s = .next t ∧ t.engine = .idle ∧ t.done = true ∧ t.err = s.err ∧ t.errcode = s.errcode ∧
      t.errcmd = s.errcmd := by
  obtain ⟨u, hu⟩ := h.2 hn
  have hk := ruleOf_keeps hu
  exact ⟨_, exec_of_ruleOf_ok hu, rfl, rfl, hk.err, hk.errcode, hk.errcmd⟩

end DecidedBy

/-! ## The rules, each decided by its row of R367's table -/

section
variable {s : State} {l : BitVec 16}

theorem aesKeyexpRule_decided (ks : BitVec 2) : DecidedBy (checks (.aesKeyexp ks) s) (aesKeyexpRule ks s) := by
  by_cases hks : ks = 3
  · rw [aesKeyexpRule_refuses (.inl hks)]
    exact .fails (decide_eq_true hks)
  · refine .passes (decide_eq_false hks) ?_
    obtain ⟨m, hm, -⟩ := exists_aesModeOf hks
    simp only [aesKeyexpRule, hm]
    exact .check_decide fun _ => .ok _

theorem blockRule_decided (f : Block → Vector Quad 60 → Nat → Block) :
    DecidedBy [(decide (l ≠ 16), .contractViolation), (!s.kvalid, .invalidKey)] (blockRule f l s) :=
  .check_decide fun _ => .check_not (.ok _)

theorem sesInitRule_decided (dir : Dir) (chain : ChainMode) {pad : BitVec 2} (h : pad ≠ 3) :
    DecidedBy (checks (.sesInit dir chain pad) s) (sesInitRule dir chain pad s) := by
  obtain ⟨p, hp, -⟩ := exists_padOf h
  simp only [sesInitRule, hp]
  exact .check_not (.ok _)

theorem sesUpdateRule_decided : DecidedBy (checks (.sesUpdate l) s) (sesUpdateRule l s) :=
  .check_decide fun _ => .check_decide fun _ => .check_decide fun _ => .ok _

/-- The number of padding blocks as R367's row counts it. -/
theorem padCount_eq_ite (pad : Pad) (r : Nat) :
    padCount pad r = if pad = .none ∨ (pad = .zero ∧ r = 0) then 0 else 1 := by
  cases pad <;> simp [padCount]

theorem sesFinalRule_decided : DecidedBy (checks (.sesFinal l) s) (sesFinalRule l s) := by
  simp only [checks, ← padCount_eq_ite]
  exact .check_decide fun _ => .check_decide fun _ => .check_decide fun _ => .check_decide fun _ => .ok _

theorem stRule_decided (f : Block → Block) : DecidedBy [(decide (l ≠ 16), .contractViolation)] (stRule f l s) :=
  .check_decide fun _ => .ok _

theorem stAddroundkeyRule_decided (round : BitVec 4) :
    DecidedBy (checks (.stAddroundkey round l) s) (stAddroundkeyRule round l s) := by
  refine .check_decide fun hl => .check_not (.check_decide fun _ => ?_)
  rw [stRule, if_neg hl]
  exact .ok _

theorem i2osp_decided (v l : Nat) : DecidedBy [(decide (v ≥ 256 ^ l), .integerTooLarge)] (i2osp v l) :=
  .check_decide fun _ => .ok _

theorem bnLdRule_decided {reg : BitVec 6} (h : bnRegExists s.cfg reg = true) :
    DecidedBy (checks (.bnLd reg l) s) (bnLdRule reg l s) := by
  rw [bnLdRule, if_neg (by simp [h])]
  exact .check_decide fun _ => .ok _

theorem bnStRule_decided {reg : BitVec 6} (h : bnRegStorable reg = true) :
    DecidedBy (checks (.bnSt reg l) s) (bnStRule reg l s) := by
  rw [bnStRule, if_neg (by simp [h])]
  exact .check_decide fun _ => .check_not ((i2osp_decided _ _).map _)

/-! ### RSA and PKCS #1 -/

theorem State.rsasp1_refuses {form : KeyForm} {m : Nat} (hm : s.bnVal regN ≤ m) :
    s.rsasp1 form m = .error .outOfRange := by
  cases form <;> exact if_pos hm

/-- A representative is signed: in the MultiPrime form with the recombined value, in the Pair form below `N`. -/
theorem State.rsasp1_signs {form : KeyForm} {m : Nat} (hm : m < s.bnVal regN) :
    ∃ v, s.rsasp1 form m = .ok v ∧ (form = .multiPrime → s.multiPrimeValue m = v) ∧
      (form = .pair → v < s.bnVal regN) := by
  cases form with
  | pair => exact ⟨_, State.rsasp1_pair hm, nofun, fun _ => Nat.mod_lt _ (by omega)⟩
  | multiPrime => exact ⟨_, State.rsasp1_multiPrime hm, fun _ => rfl, nofun⟩

theorem rsaSp1Rule_decided (form : KeyForm) : DecidedBy (checks (.rsaSp1 form) s) (rsaSp1Rule form s) := by
  refine .check Iff.rfl fun _ => ?_
  by_cases hm : s.bnVal regM ≥ s.bnVal regN
  · rw [State.rsasp1_refuses hm]
    exact .fails (decide_eq_true hm)
  · obtain ⟨v, hv, hmp, -⟩ := State.rsasp1_signs (form := form) (Nat.not_le.1 hm)
    have hlast : form = .multiPrime ∧ s.multiPrimeValue (s.bnVal regM) ≥ 2 ^ (8 * s.cfg.kmax) ↔
        form = .multiPrime ∧ v ≥ 2 ^ (8 * s.cfg.kmax) := and_congr_right fun hf => by rw [hmp hf]
    rw [hv]
    exact .passes (decide_eq_false hm) (.check (decide_eq_true_iff.trans hlast) fun _ => .ok _)

theorem rsaVp1Rule_decided : DecidedBy (checks .rsaVp1 s) (rsaVp1Rule s) :=
  .check Iff.rfl fun _ => DecidedBy.map (.check_decide fun _ => .ok _) _

theorem emsaEncRule_decided (alg : BitVec 4) : DecidedBy (checks (.emsaEnc alg l) s) (emsaEncRule alg l s) := by
  refine .supported (fun h => by simp only [emsaEncRule, h]) fun row hrow hlen _ => ?_
  simp only [emsaEncRule, hrow, hlen]
  refine .check_decide fun _ => .check_decide fun hh => ?_
  rw [s.emsa_eq hrow (Nat.not_lt.1 hh)]
  exact DecidedBy.map (.check_decide fun _ => .ok _) _

theorem pkcsSignRule_decided (alg : BitVec 4) (form : KeyForm) :
    DecidedBy (checks (.pkcsSign alg form) s) (pkcsSignRule alg form s) := by
  refine .supported (fun h => by simp only [pkcsSignRule, h]) fun row hrow hlen _ => ?_
  simp only [pkcsSignRule, hrow, hlen]
  refine .check Iff.rfl fun hkey => .check_decide fun hh => ?_
  rw [s.emsa_eq hrow (Nat.not_lt.1 hh)]
  by_cases hshort : bytelen (s.bnVal regN) < tLenOf s.cfg.emsaTForm alg s.hlen.toNat + 11
  · rw [if_pos hshort]
    exact .fails (decide_eq_true hshort)
  · have hN := State.bnVal_regN_ne_zero (Bool.eq_false_iff.2 hkey)
    have hm := s.os2ip_encodedMessage_lt (algOf_eq_some hrow).1 (Nat.not_lt.1 hh) (Nat.not_lt.1 hshort) hN rfl
    obtain ⟨v, hv, hmp, hpair⟩ := State.rsasp1_signs (form := form) hm
    have hlast : form = .multiPrime ∧
        s.multiPrimeValue (os2ip (s.encodedMessage alg (bytelen (s.bnVal regN)))) ≥ 256 ^ bytelen (s.bnVal regN) ↔
        v ≥ 256 ^ bytelen (s.bnVal regN) := by
      cases form with
      | pair => exact iff_of_false (fun h => nomatch h.1) ((hpair rfl).trans (lt_pow_bytelen _)).not_ge
      | multiPrime => rw [hmp rfl, and_iff_right rfl]
    simp only [if_neg hshort, hv]
    exact .passes (decide_eq_false hshort) (.check (decide_eq_true_iff.trans hlast) fun _ => .ok _)

theorem pkcsVerifyRule_decided (alg : BitVec 4) :
    DecidedBy (checks (.pkcsVerify alg l) s) (pkcsVerifyRule alg l s) := by
  refine .supported (fun h => by simp only [pkcsVerifyRule, h]) fun row hrow _ _ => ?_
  simp only [pkcsVerifyRule, hrow]
  exact .check_decide fun _ => .check Iff.rfl fun _ => .ok _

/-! ### DER -/

theorem derLenencRule_decided : DecidedBy (checks .derLenenc s) (derLenencRule s) :=
  .check_decide fun _ => .ok _

theorem derLendecRule_decided : DecidedBy (checks (.derLendec l) s) (derLendecRule l s) :=
  .check_decide fun _ => DecidedBy.map (.isNone fun _ => derlenDec_error) _

/-- OID encoding refuses with ContractViolation only (46_der.md R287). -/
theorem oidEnc_error {o : List Nat} {e : Exc} (h : oidEnc o = .error e) : e = .contractViolation := by
  match o with
  | [] | [_] => exact (Except.error.inj h).symm
  | v0 :: v1 :: others =>
    refine error_of_check (error_of_check (error_of_check (error_of_check ?_))) h
    exact nofun

/-- The identifiers that encode, by their components. -/
theorem exists_oidEnc_iff {o : List Nat} : (∃ e, oidEnc o = .ok e) ↔
    2 ≤ o.length ∧ o.length ≤ 16 ∧ o.getD 0 0 ≤ 2 ∧ (o.getD 0 0 < 2 → o.getD 1 0 ≤ 39) ∧
      40 * o.getD 0 0 + o.getD 1 0 ≤ 255 := by
  constructor
  · rintro ⟨e, he⟩
    obtain ⟨v0, v1, others, rfl, ⟨hlen, h0, h1, hb⟩, -⟩ := oidEnc_ok_iff.1 he
    exact ⟨Nat.le_add_left .., hlen, h0, h1, hb⟩
  · rintro ⟨h2, h16, h0, h1, hb⟩
    exact exists_oidEnc h2 h16 h0 h1 hb

theorem oidEncRule_decided : DecidedBy (checks .oidEnc s) (oidEncRule s) := by
  refine DecidedBy.map (.only ?_ fun _ => oidEnc_error) _
  rw [decide_eq_false_iff_not, exists_oidEnc_iff, s.length_components]
  omega

theorem oidDecRule_decided : DecidedBy (checks (.oidDec l) s) (oidDecRule l s) :=
  .check_decide fun _ => DecidedBy.map (.isNone fun _ => oidDec_error) _

theorem algidEncRule_decided (alg : BitVec 4) : DecidedBy (checks (.algidEnc alg) s) (algidEncRule alg s) := by
  refine .supported (fun h => by simp only [algidEncRule, h]) fun row hrow _ henc => ?_
  simp only [algidEncRule, hrow, henc]
  exact .ok _

theorem oidLdalgRule_decided (alg : BitVec 4) : DecidedBy (checks (.oidLdalg alg) s) (oidLdalgRule alg s) := by
  refine .supported (fun h => by simp only [oidLdalgRule, h]) fun row hrow _ _ => ?_
  simp only [oidLdalgRule, hrow]
  exact .ok _

end

/-- Every well-formed command's rule is decided by its checks. -/
theorem ruleOf_decided {i : Instr} {s : State} (h : i.wellFormed s.cfg = true) :
    DecidedBy (checks i s) (ruleOf i s) := by
  cases i with
  | nop => exact .ok _
  | aesKeyexp ks => exact aesKeyexpRule_decided ks
  | aesEncb l | aesDecb l => exact blockRule_decided _
  | sesInit dir chain pad => exact sesInitRule_decided dir chain (of_decide_eq_true h)
  | sesUpdate l => exact sesUpdateRule_decided
  | sesFinal l => exact sesFinalRule_decided
  | gfMul l => exact .check_decide fun _ => .ok _
  | stSubbytes l | stInvsubbytes l | stShiftrows l | stInvshiftrows l | stMixcolumns l | stInvmixcolumns l =>
    exact stRule_decided _
  | stAddroundkey round l => exact stAddroundkeyRule_decided round
  | bnLd reg l => exact bnLdRule_decided h
  | bnSt reg l => exact bnStRule_decided h
  | rsaSp1 form => exact rsaSp1Rule_decided form
  | rsaVp1 => exact rsaVp1Rule_decided
  | emsaEnc alg l => exact emsaEncRule_decided alg
  | pkcsSign alg form => exact pkcsSignRule_decided alg form
  | pkcsVerify alg l => exact pkcsVerifyRule_decided alg
  | derLenenc => exact derLenencRule_decided
  | derLendec l => exact derLendecRule_decided
  | oidEnc => exact oidEncRule_decided
  | oidDec l => exact oidDecRule_decided
  | algidEnc alg => exact algidEncRule_decided alg
  | oidLdalg alg => exact oidLdalgRule_decided alg

/-- Settles O12: the checks decide the rule, and the commit point follows it. -/
theorem checksInTabulatedOrder : Obligations.ChecksInTabulatedOrder := by
  intro i s hwf
  have h := ruleOf_decided hwf
  cases hf : firstFailing (checks i s) with
  | some x => exact h.exec_raises hf
  | none => exact h.exec_completes hf

/-! ## What the bus shows (R380) -/

/-- The state with other contents of what the HOST may not read: `W`, the bignum registers, `CHAIN`, `BUF`, and, in the
memory, `KEY`. -/
def State.withSecrets (s : State) (w : Vector Quad 60) (bn : Vector BnCell 64) (chain buf : Block) (m : Memory) :
    State :=
  { s with w := w, bn := bn, chain := chain, buf := buf, mem := m }

section
variable {s : State} {m : Memory} (hm : ∀ a, ¬(0x60 ≤ a ∧ a < 0x80) → Memory.read m a = Memory.read s.mem a)
  (w : Vector Quad 60) (bn : Vector BnCell 64) (chain buf : Block)
include hm

/-- No byte of a row of the address map shows them: `KEY` reads as zero, and the other windows lie elsewhere
(20_memory.md R71). -/
theorem State.windowByte_withSecrets {row : MapRow} (hrow : row ∈ addressMap s.cfg) {a : Nat} (h1 : row.base ≤ a)
    (h2 : a < row.base + row.size) :
    (s.withSecrets w bn chain buf m).windowByte row.target a = s.windowByte row.target a := by
  obtain ⟨b, k, t⟩ := row
  cases t with
  | reg r | oidv | outhead | key => rfl
  | iv | hbuf | dbuf =>
    refine hm a ?_
    simp [addressMap, registerRows, ivBase, hbufBase, dbufBase] at hrow h1 h2
    omega

/-- So no read of the bus does (R74). -/
theorem State.busRead_withSecrets (off : Nat) (n : Width) :
    (s.withSecrets w bn chain buf m).busRead off n = s.busRead off n := by
  cases hl : legalRow s.cfg off n with
  | none => simp only [State.busRead, State.withSecrets, hl]
  | some row =>
    obtain ⟨hrow, -, h1, h2, -⟩ := (legalRow_eq_some_iff s.cfg off n row).1 hl
    by_cases hnarrow : row.target.narrow = true
    · rw [State.busRead_window (s := s.withSecrets w bn chain buf m) hl hnarrow, State.busRead_window hl hnarrow]
      congr 2
      refine List.map_congr_left fun i hi => ?_
      have hi := List.mem_range.1 hi
      exact State.windowByte_withSecrets hm w bn chain buf hrow (by omega) (by omega)
    · obtain ⟨b, k, t⟩ := row
      cases t with
      | reg r =>
        rw [State.busRead_register (s := s.withSecrets w bn chain buf m) hl, State.busRead_register hl]
        rfl
      | oidv => simp only [State.busRead, State.withSecrets, hl]
      | outhead | iv | key | hbuf | dbuf => exact absurd rfl hnarrow

theorem State.resp_read_withSecrets (addr : Nat) (n : Width) :
    ((s.withSecrets w bn chain buf m).hostAccess (.read addr n)).resp = (s.hostAccess (.read addr n)).resp := by
  have hcfg : (s.withSecrets w bn chain buf m).cfg = s.cfg := rfl
  simp only [State.hostAccess, hcfg]
  cases blockOffset s.cfg addr with
  | none => rfl
  | some off => exact congrArg some (State.busRead_withSecrets hm w bn chain buf off n)

end

/-- Settles O58: the other state is the same one with other secrets, and the decoder lets BN.ST name `N`, `E`, `M` and
`S` only (30_encoding.md R105). -/
theorem busReadsRevealNoSecret : Obligations.BusReadsRevealNoSecret := by
  refine ⟨fun s s' _ hs hm => ?_, fun cfg c reg l h => ?_⟩
  · rw [show s' = s.withSecrets s'.w s'.bn s'.chain s'.buf s'.mem from hs]
    exact ⟨State.resp_read_withSecrets hm _ _ _ _, rfl⟩
  · have hstore : bnRegStorable reg = true := ((decodeAndEncodeAgree cfg c _).1 h).2
    simpa [bnRegStorable, or_assoc] using hstore

end Sys2Proof.Machine
end
